-- ==== Sys2Proof/Word.lean ====
section
/-! DEFINITION. The smallest types: a byte of either line, and the numbers that name a spot, a grade and a valve. -/

namespace Sys2Proof

/-- One byte of the supervisory line or of the spot link. -/
abbrev Byte := BitVec 8

/-- Spots (and their stations) are numbered 0 to 5 (00_scope 4.1). -/
abbrev SpotNo := Fin 6

/-- Grades are numbered 0 to 3 (R76). -/
abbrev GradeNo := Fin 4

/-- Valve indices run from 0 to 11: 2 × spot for the liquid valve, 2 × spot + 1 for the vapour valve (00_scope 4.1). -/
abbrev ValveIndex := Fin 12

end Sys2Proof
end

