-- ==== Sys2Proof/Syntax.lean ====
section
/-! DEFINITION. The commands of the block: one constructor for each row of spec/opcode_table.json.
A request carries the tag and the body bytes of its frame (R183, R190); a reply of the spot link carries the bytes of
its frame (R145). -/

namespace Sys2Proof

/-- The two emergency shutdown valves of a spot: L and V (00_scope 4.1). -/
inductive ValveSide
  | liquid
  | vapour
  deriving DecidableEq, Repr

/-- The eight kinds of spot-link transaction (R145, R146). -/
inductive LinkKind
  | initStation
  | close
  | attentionPoll
  | sampleRead
  | countAck
  | valveOpen
  | stroke
  | clear
  deriving DecidableEq, Repr

/-- The rates the line rate strap selects (R182). -/
inductive LineRate
  | baud9600
  | baud19200
  | baud38400
  | baud115200
  deriving DecidableEq, Repr

/-- What power-on reset first reads of the pins: the strap (R182) and the levels of the discrete inputs (R120, R102). -/
structure PinLevels where
  strap : LineRate
  sidingStop : Bool
  compressorFault : Bool
  compressorRun : Bool
  attentionLine : Bool
  deriving DecidableEq, Repr

/-- The commands: the rows of spec/opcode_table.json, in the table's order. -/
inductive Instr
  /-- POWER_ON_RESET (R198), with the pin levels it first reads. -/
  | powerOnReset (pins : PinLevels)
  /-- LINE_BYTE_RECEIVED (R185). -/
  | lineByteReceived (b : Byte)
  /-- LINE_FRAMING_ERROR (R185). -/
  | lineFramingError
  /-- GAP_TIMER_EXPIRY (R185). -/
  | gapTimerExpiry
  /-- REPLY_LAST_BYTE_SENT (R185). -/
  | replyLastByteSent
  /-- UNSUPPORTED_REQUEST (R186): a whole request with a code outside the table of R190. -/
  | unsupportedRequest (code : Byte) (tag : Byte) (body : List Byte)
  /-- CAR_ADD (R37). -/
  | carAdd (tag : Byte) (body : List Byte)
  /-- CAR_WITHDRAW (R38). -/
  | carWithdraw (tag : Byte) (body : List Byte)
  /-- CAR_MOVE (R39). -/
  | carMove (tag : Byte) (body : List Byte)
  /-- CAR_LIST (R40). -/
  | carList (tag : Byte) (body : List Byte)
  /-- SPOT_ASSIGN (R5). -/
  | spotAssign (tag : Byte) (body : List Byte)
  /-- SPOT_RELEASE (R8). -/
  | spotRelease (tag : Byte) (body : List Byte)
  /-- SPOT_START (R11). -/
  | spotStart (tag : Byte) (body : List Byte)
  /-- SPOT_HOLD (R20). -/
  | spotHold (tag : Byte) (body : List Byte)
  /-- SPOT_RESUME (R21). -/
  | spotResume (tag : Byte) (body : List Byte)
  /-- SPOT_STOP (R19). -/
  | spotStop (tag : Byte) (body : List Byte)
  /-- SPOT_RESET (R116). -/
  | spotReset (tag : Byte) (body : List Byte)
  /-- SPOT_OVERRIDE (R10). -/
  | spotOverride (tag : Byte) (body : List Byte)
  /-- SPOT_CONFIG (R32). -/
  | spotConfig (tag : Byte) (body : List Byte)
  /-- SPOTS_READ (R192). -/
  | spotsRead (tag : Byte) (body : List Byte)
  /-- GRADE_LOAD (R87). -/
  | gradeLoad (tag : Byte) (body : List Byte)
  /-- GRADE_READ (R88). -/
  | gradeRead (tag : Byte) (body : List Byte)
  /-- SIDING_CONFIG (R195). -/
  | sidingConfig (tag : Byte) (body : List Byte)
  /-- SIDING_MODE (R121). -/
  | sidingMode (tag : Byte) (body : List Byte)
  /-- PROOF_REQUEST (R142). -/
  | proofRequest (tag : Byte) (body : List Byte)
  /-- PROOF_READ (R143). -/
  | proofRead (tag : Byte) (body : List Byte)
  /-- TICKET_READ (R177). -/
  | ticketRead (tag : Byte) (body : List Byte)
  /-- TICKET_RELEASE (R178). -/
  | ticketRelease (tag : Byte) (body : List Byte)
  /-- STATUS (R193). -/
  | status (tag : Byte) (body : List Byte)
  /-- RESTART (R196). -/
  | restart (tag : Byte) (body : List Byte)
  /-- SIDING_STOP_ACTIVE (R125). -/
  | sidingStopActive
  /-- SIDING_STOP_CLEAR (R125). -/
  | sidingStopClear
  /-- COMPRESSOR_FAULT_ACTIVE (R101). -/
  | compressorFaultActive
  /-- COMPRESSOR_FAULT_CLEAR (R102). -/
  | compressorFaultClear
  /-- COMPRESSOR_RUN_CHANGE (R102), with the level the input changes to. -/
  | compressorRunChange (level : Bool)
  /-- ATTENTION_LINE_ACTIVE (R162), with the level the line changes to; the row's own event is `true`, and `false` is
  the line's return to inactive (R161), which has no row of its own (log 9). -/
  | attentionLineActive (level : Bool)
  /-- SETTLE_TIMER_EXPIRY (R7). -/
  | settleTimerExpiry (spot : SpotNo)
  /-- WINDOW_TIMER_EXPIRY (R50). -/
  | windowTimerExpiry (spot : SpotNo)
  /-- TRANSFER_LIMIT_EXPIRY (R16). -/
  | transferLimitExpiry (spot : SpotNo)
  /-- STRIP_TIMER_EXPIRY (R18). -/
  | stripTimerExpiry (spot : SpotNo)
  /-- PURGE_TIMER_EXPIRY (R23). -/
  | purgeTimerExpiry (spot : SpotNo)
  /-- TRAVEL_TIMER_EXPIRY (R30). -/
  | travelTimerExpiry (spot : SpotNo) (valve : ValveSide)
  /-- SPACING_TIMER_EXPIRY (R99). -/
  | spacingTimerExpiry
  /-- CHANGEOVER_TIMER_EXPIRY (R97). -/
  | changeoverTimerExpiry
  /-- AGE_TIMER_EXPIRY (R89). -/
  | ageTimerExpiry
  /-- HOUR_TIMER_EXPIRY (R128). -/
  | hourTimerExpiry
  /-- PROOF_STEP_TIMER_EXPIRY (R139). -/
  | proofStepTimerExpiry
  /-- STROKE_TIMER_EXPIRY (R136). -/
  | strokeTimerExpiry
  /-- HOLD_OFF_EXPIRY (R150): the hold-off of the pending entry of this station and kind runs out. -/
  | holdOffExpiry (station : SpotNo) (kind : LinkKind)
  /-- POLL_HOLD_OFF_EXPIRY (R162). -/
  | pollHoldOffExpiry
  /-- RECOVERY_TIMER_EXPIRY (R154). -/
  | recoveryTimerExpiry (station : SpotNo)
  /-- TRANSACTION_SEND (R150). -/
  | transactionSend
  /-- SPOT_LINK_MISS (R151). -/
  | spotLinkMiss
  /-- INITIALIZE_REPLY (R155). -/
  | initializeReply (frame : List Byte)
  /-- CLOSE_REPLY (R29). -/
  | closeReply (frame : List Byte)
  /-- VALVE_OPEN_REPLY (R29). -/
  | valveOpenReply (frame : List Byte)
  /-- SAMPLE_READ_REPLY (R157). -/
  | sampleReadReply (frame : List Byte)
  /-- COUNT_ACK_REPLY (R159). -/
  | countAckReply (frame : List Byte)
  /-- STROKE_REPLY (R134). -/
  | strokeReply (frame : List Byte)
  /-- CLEAR_REPLY (R164). -/
  | clearReply (frame : List Byte)
  /-- ATTENTION_POLL_COMPLETE (R163): what was received in slots 0 to 5; an empty slot is no reply. -/
  | attentionPollComplete (slots : List (List Byte))
  deriving DecidableEq, Repr

end Sys2Proof
end

