-- ==== Sys2Proof/Decode.lean ====
section
/-! DEFINITION. The table of this block gives no row bits, so no word spells a command. -/

namespace Sys2Proof

/-- No row of spec/opcode_table.json gives bits, so no word decodes (log 18). -/
def decodeTableWord (_nbits _w : Nat) : Option Instr := none

end Sys2Proof
end

