-- ==== Sys2Proof/Config.lean ====
section
/-! DEFINITION. The free values: what the spec leaves open. None has a body, so no proof can lean on a value of one. -/

namespace Sys2Proof.Config

/-- Where the spec gives no order (in which the siding unit tells the spots of a change; which of two events owed
at one moment is taken first), the choice is this value at the counter `State.choices`. Logs 6 and 7. -/
opaque freeChoice : Nat → Nat

/-- What a density lookup would give, at a temperature, in a grade that is not loaded: R60 and R77 say that no such
lookup is made. Log 14. -/
opaque densityNotLoaded : Int → Nat

/-- The heel flow of a grade that is not loaded. Log 14. -/
opaque heelFlowNotLoaded : Nat

/-- The strip-end pressure of a grade that is not loaded. Log 14. -/
opaque stripEndNotLoaded : Nat

/-- The maximum car pressure of a grade that is not loaded. Log 14. -/
opaque maxPressureNotLoaded : Nat

/-- The rounding mode of a grade that is not loaded, as a code taken modulo 4. Log 14. -/
opaque roundingNotLoaded : Nat

end Sys2Proof.Config
end

