-- ==== Sys2Proof/Machine/State.lean ====
section
/-! DEFINITION. Everything the spec gives the SU-6 to hold, as plain data, and its values after power-on reset. -/

namespace Sys2Proof.Machine

/-- The six spots in ascending order. -/
def allSpots : List SpotNo := [0, 1, 2, 3, 4, 5]

/-- The twelve valve indices in ascending order. -/
def allValves : List ValveIndex := [0, 1, 2, 3, 4, 5, 6, 7, 8, 9, 10, 11]

/-- A named countdown (00_scope 4.6): stopped, or running with the remaining time in ms. -/
inductive Timer
  | stopped
  | running (ms : Nat)
  deriving DecidableEq, Repr

/-! ## Car records and the manifest (chapter 2) -/

/-- A car record (R35). The set of spots is kept ascending; absent means any spot. -/
structure CarRecord where
  carId : List Byte
  grade : GradeNo
  declaredMass : Option Nat
  targetMass : Option Nat
  spotSet : Option (List SpotNo)
  deriving DecidableEq, Repr

/-! ## The spot record (chapter 1) -/

/-- The thirteen spot states (section 1.2). -/
inductive SpotState
  | vacant
  | assigned
  | connected
  | ready
  | startWait
  | transfer
  | stripWait
  | strip
  | held
  | purge
  | ticketWait
  | complete
  | tripped
  deriving DecidableEq, Repr

/-- Why the liquid phase ended (R1, R172). -/
inductive EndReason
  | empty
  | target
  | timeLimit
  | stopped
  | interrupted
  deriving DecidableEq, Repr

/-- resume_phase of R1. -/
inductive ResumePhase
  | liquid
  | strip
  deriving DecidableEq, Repr

/-- hold_reason of R1. -/
inductive HoldReason
  | operator
  | sidingShut
  | compressor
  deriving DecidableEq, Repr

/-- The ten trip causes, numbered 1 to 10 in this order (R107). -/
inductive TripCause
  | esd
  | gas
  | sidingStop
  | bondLost
  | armsLost
  | stationLost
  | stationLocal
  | valveFault
  | overpressure
  | sensorFault
  deriving DecidableEq, Repr

/-- The trip record (R113): the cause set is kept in cause-number order without repeats. -/
structure TripRecord where
  firstOut : TripCause
  causes : List TripCause
  deriving DecidableEq, Repr

/-- The eleven permissives, at positions 0 to 10 in this order (R9). -/
inductive Permissive
  | bond
  | arms
  | remote
  | gasClear
  | esdClear
  | proofCurrent
  | valveHealth
  | carPressure
  | gradeLoaded
  | sidingRun
  | valvesAtRest
  deriving DecidableEq, Repr

/-- The bypass set, drawn from PROOF_CURRENT and CAR_PRESSURE (R1, R10). -/
structure Bypass where
  proofCurrent : Bool
  carPressure : Bool
  deriving DecidableEq, Repr

/-- sequence_flags of R1. -/
structure SequenceFlags where
  bypassUsed : Bool
  stripped : Bool
  stripTimeout : Bool
  deriving DecidableEq, Repr

/-- Command state of a valve (section 1.10). -/
inductive ValveCommand
  | closed
  | opening
  | opened
  | closing
  deriving DecidableEq, Repr

/-- A set of the two valves of a spot. -/
structure ValveSet where
  l : Bool
  v : Bool
  deriving DecidableEq, Repr

/-- closing_read of R1. -/
inductive ClosingRead
  | none
  | outstanding
  | settled
  deriving DecidableEq, Repr

/-- The spot configuration (R2). -/
structure SpotConfig where
  present : Bool
  k : Nat
  co : Nat
  dpCutoff : Nat
  settleTime : Nat
  purgeTime : Nat
  stripLimit : Nat
  transferLimit : Nat
  heelWindows : Nat
  travelLimit : Nat
  strokeLimitL : Nat
  strokeLimitV : Nat
  deriving DecidableEq, Repr

/-- The spot record (R1). The permissive set is the view `State.permissive` (log 13). -/
structure SpotRecord where
  state : SpotState
  car : Option CarRecord
  stripRequested : Bool
  endReason : Option EndReason
  seqFlags : SequenceFlags
  resumePhase : Option ResumePhase
  holdReason : Option HoldReason
  trip : Option TripRecord
  bypass : Bypass
  valveL : ValveCommand
  valveV : ValveCommand
  openDeferred : ValveSet
  closingRead : ClosingRead
  purgeExpired : Bool
  settle : Timer
  window : Timer
  strip : Timer
  purge : Timer
  /-- Transfer-limit timer: the TRANSFER time that remains, in ms (R16). -/
  limitMs : Nat
  /-- Transfer-limit timer: running in TRANSFER, paused elsewhere (R16). -/
  limitRunning : Bool
  travelL : Timer
  travelV : Timer
  config : SpotConfig
  deriving DecidableEq, Repr

/-! ## The metering record (chapter 3) -/

/-- The phase a window is taken for (R13, R50). -/
inductive Phase
  | transfer
  | strip
  deriving DecidableEq, Repr

/-- condition_flags of R48. -/
structure ConditionFlags where
  tempClamped : Bool
  dpClamped : Bool
  pvClamped : Bool
  estimated : Bool
  pulseOverrun : Bool
  pulsesUnread : Bool
  accumSat : Bool
  deriving DecidableEq, Repr

/-- A held signed reading with its clamp mark (R48). -/
structure HeldInt where
  value : Int
  clamped : Bool
  deriving DecidableEq, Repr

/-- A held unsigned reading with its clamp mark (R48). -/
structure HeldNat where
  value : Nat
  clamped : Bool
  deriving DecidableEq, Repr

/-- window_read outstanding: the phase and the period (in ms) the window was closed with (R50). -/
structure WindowRead where
  phase : Phase
  period : Nat
  deriving DecidableEq, Repr

/-- The metering record (R48). -/
structure Meter where
  volume : Nat
  liquid : Nat
  vapourReturned : Nat
  vapourRecovered : Nat
  rv : Nat
  rm : Nat
  rr : Nat
  rc : Nat
  windowsCounted : Nat
  estimatedWindows : Nat
  heelCountdown : Nat
  heldRun : Nat
  flags : ConditionFlags
  heldT : HeldInt
  heldDp : HeldNat
  heldPv : HeldNat
  heldCarPressure : Nat
  windowRead : Option WindowRead
  closingRequest : Bool
  deriving DecidableEq, Repr

/-! ## Grades (chapter 4) -/

/-- The four rounding modes (R75, R76). -/
inductive RoundingMode
  | nearestEven
  | towardZero
  | up
  | down
  deriving DecidableEq, Repr

/-- One breakpoint: a temperature in 0.01 °C and the density there in 0.01 kg/m³ (section 4.2). -/
structure Breakpoint where
  temp : Int
  density : Nat
  deriving DecidableEq, Repr

/-- A loaded grade record (R76). -/
structure Grade where
  label : List Byte
  breakpoints : List Breakpoint
  rounding : RoundingMode
  heelFlow : Nat
  stripEnd : Nat
  maxPressure : Nat
  deriving DecidableEq, Repr

/-! ## The compressor (chapter 5) -/

/-- PUSH or PULL: a reversing-valve position, a target, the kind of a queue entry (R89, R90). -/
inductive Duty
  | push
  | pull
  deriving DecidableEq, Repr

/-- Compressor mode (R89). -/
inductive CompressorMode
  | idle
  | push
  | pull
  | changeover
  deriving DecidableEq, Repr

/-- An entry of the compressor queue (R90). -/
structure QueueEntry where
  spot : SpotNo
  kind : Duty
  deriving DecidableEq, Repr

/-- The compressor record (R89) and the compressor queue (R90, head first). `pushHolders` is kept ascending. -/
structure Compressor where
  mode : CompressorMode
  position : Duty
  target : Option Duty
  pushHolders : List SpotNo
  pullHolder : Option SpotNo
  spacing : Timer
  changeover : Timer
  pushGrantAge : Option Nat
  age : Timer
  queue : List QueueEntry
  deriving DecidableEq, Repr

/-! ## Valve proofs (chapter 7) -/

/-- Proof standing of a valve (R126). -/
inductive ProofState
  | current
  | due
  | failed
  deriving DecidableEq, Repr

/-- last_result of R126; absent stands for "none". -/
inductive StrokeResult
  | pass
  | slow
  | fail
  | aborted
  deriving DecidableEq, Repr

/-- fault_source of R126. -/
inductive FaultSource
  | stroke
  | travel
  deriving DecidableEq, Repr

/-- A valve proof record (R126). -/
structure ProofRecord where
  state : ProofState
  elapsed : Nat
  lastResult : Option StrokeResult
  lastTravel : Option Nat
  faultSource : Option FaultSource
  deriving DecidableEq, Repr

/-- Who started a stroke (R133). -/
inductive StrokeOrigin
  | cursor
  | request
  deriving DecidableEq, Repr

/-- The stroke record (R133). -/
structure Stroke where
  valve : ValveIndex
  origin : StrokeOrigin
  limit : Nat
  timer : Timer
  deriving DecidableEq, Repr

/-- The proof scheduler's state (R126, R127). -/
structure ProofUnit where
  records : Vector ProofRecord 12
  cursor : ValveIndex
  stepTimer : Timer
  hourTimer : Timer
  stroke : Option Stroke
  deriving DecidableEq, Repr

/-! ## The spot link (chapter 8) -/

/-- Status of a station (R152). -/
inductive StationStatus
  | absent
  | unknown
  | online
  | localOp
  | lost
  deriving DecidableEq, Repr

/-- A station's inputs (R145, R152). -/
structure Inputs where
  esd : Bool
  gas : Bool
  bond : Bool
  arms : Bool
  deriving DecidableEq, Repr

/-- A reported valve position (R145). -/
inductive ValvePosition
  | closed
  | opened
  | travel
  deriving DecidableEq, Repr

/-- The reported positions of L and V (R152). -/
structure Positions where
  l : ValvePosition
  v : ValvePosition
  deriving DecidableEq, Repr

/-- ack_outstanding of R152: a read sequence and an amount. -/
structure Ack where
  seq : Byte
  amount : Nat
  deriving DecidableEq, Repr

/-- A station record (R152). -/
structure Station where
  status : StationStatus
  misses : Nat
  inputs : Inputs
  positions : Option Positions
  booked : Nat
  ackOutstanding : Option Ack
  recovery : Timer
  deriving DecidableEq, Repr

/-- The markings of a SAMPLE_READ (R148): WINDOW with a phase, CLOSING, ATTENTION. -/
structure Markings where
  window : Option Phase
  closing : Bool
  attention : Bool
  deriving DecidableEq, Repr

/-- A transaction with its data (R148). `initStation` carries whether this INITIALIZE has already been answered
NOT_DONE, for "the first reply" of R155 (log 20). -/
inductive Txn
  | initStation (answered : Bool)
  | close
  | attentionPoll
  | sampleRead (marks : Markings)
  | countAck (seq : Byte) (amount : Nat)
  | valveOpen (valves : ValveSet)
  | stroke (valve : ValveSide)
  | clear
  deriving DecidableEq, Repr

/-- An entry of the pending list (R148). `station` is absent for the broadcast ATTENTION_POLL alone. -/
structure LinkEntry where
  station : Option SpotNo
  txn : Txn
  holdOff : Timer
  deriving DecidableEq, Repr

/-- What has been marked on the transaction in flight: nothing; withdrawn by R149 or R137 (its reply still updates
the record, R151); or dropped because its station became ABSENT or by Restart (R153, R165: its reply or miss changes
nothing). -/
inductive FlightMark
  | live
  | withdrawn
  | dropped
  deriving DecidableEq, Repr

/-- The transaction in flight (R144). -/
structure InFlight where
  entry : LinkEntry
  mark : FlightMark
  deriving DecidableEq, Repr

/-- The link scheduler's state (R148, R152, R161 to R165). `entries` holds all classes, in joining order. -/
structure Link where
  stations : Vector Station 6
  entries : List LinkEntry
  inFlight : Option InFlight
  mask : List SpotNo
  pollHoldOff : Timer
  attentionLine : Bool
  deriving DecidableEq, Repr

/-! ## Tickets (chapter 9) -/

/-- The flags of a ticket (R173). -/
structure TicketFlags where
  condition : ConditionFlags
  sequence : SequenceFlags
  negativeNet : Bool
  deriving DecidableEq, Repr

/-- declared_kg and difference_kg, present together or absent together (R169). -/
structure Declared where
  declaredKg : Nat
  differenceKg : Int
  deriving DecidableEq, Repr

/-- A ticket (R169). -/
structure Ticket where
  number : Nat
  carId : List Byte
  grade : GradeNo
  spot : SpotNo
  volume : Nat
  liquid : Nat
  vapourReturned : Nat
  vapourRecovered : Nat
  netKg : Int
  windows : Nat
  estimatedWindows : Nat
  transferTime : Nat
  endReason : EndReason
  flags : TicketFlags
  declared : Option Declared
  deriving DecidableEq, Repr

/-- An entry of the ticket-wait list (R166). -/
structure WaitEntry where
  spot : SpotNo
  ticket : Ticket
  deriving DecidableEq, Repr

/-- The ticket unit's state (R166): both lists oldest first. -/
structure TicketUnit where
  serial : Nat
  queue : List Ticket
  wait : List WaitEntry
  deriving DecidableEq, Repr

/-! ## The siding unit (chapters 6 and 10) -/

/-- Siding mode (R120). -/
inductive SidingMode
  | run
  | quiet
  | shut
  deriving DecidableEq, Repr

/-- The siding configuration (R194). -/
structure SidingConfig where
  window : Nat
  startSpacing : Nat
  changeoverTime : Nat
  proofInterval : Nat
  leadTime : Nat
  proofStep : Nat
  deriving DecidableEq, Repr

/-- The siding unit's state (R120), with the level of the compressor run input (R105). -/
structure Siding where
  mode : SidingMode
  stopActive : Bool
  faultActive : Bool
  runInput : Bool
  config : SidingConfig
  deriving DecidableEq, Repr

/-! ## The supervisory line unit (chapter 10) -/

/-- The four states of the line unit (R185). -/
inductive LineMode
  | hunt
  | listen
  | receiving
  | answering
  deriving DecidableEq, Repr

/-- The status codes (R188). -/
inductive Status
  | ok
  | busy
  | range
  | notPermitted
  | full
  | empty
  | unknown
  | duplicate
  | unsupported
  | length
  deriving DecidableEq, Repr

/-- The summary of R189, its five items. -/
structure Summary where
  tickets : Nat
  tripped : List SpotNo
  notCurrent : Nat
  sidingMode : SidingMode
  compressorMode : CompressorMode
  deriving DecidableEq, Repr

/-- A reply (R187): the reply code, the tag, and the three parts of its body. -/
structure Reply where
  code : Byte
  tag : Byte
  status : Status
  summary : Summary
  result : List Byte
  deriving DecidableEq, Repr

/-- The line unit's state (R185), the request that is with its owner, the reply in progress (R187), the rate (R182). -/
structure LineUnit where
  mode : LineMode
  buffer : List Byte
  gap : Timer
  discardNoted : Bool
  request : Option Instr
  reply : Option Reply
  rate : LineRate
  deriving DecidableEq, Repr

/-! ## The whole machine -/

/-- The state of the SU-6, and the queue of the commands that wait. -/
structure State where
  pending : List Instr
  line : LineUnit
  manifest : List CarRecord
  spots : Vector SpotRecord 6
  meters : Vector Meter 6
  grades : Vector (Option Grade) 4
  comp : Compressor
  proof : ProofUnit
  link : Link
  tickets : TicketUnit
  siding : Siding
  /-- The model's own: how many free choices have been taken (logs 6 and 7). -/
  choices : Nat
  deriving DecidableEq, Repr

/-- Why a step may stop with a fault. -/
inductive Fault
  /-- Raised by UNSUPPORTED_REQUEST alone, when its code IS in the request table of R190: such a term is no event of
  the block (R186). Safe: the hardware meets no such event (log 17). -/
  | notThisCommand
  deriving DecidableEq, Repr

/-- Why a step may be refused. -/
inductive Refusal
  /-- Raised by an arm of `exec` that has no meaning yet; no arm is left. Safe. -/
  | notModelled (mnemonic : String)
  deriving DecidableEq, Repr

/-! ## Values after power-on reset -/

/-- R2, the column "After power-on". -/
def SpotConfig.powerOn : SpotConfig where
  present := false
  k := 100000
  co := 100
  dpCutoff := 0
  settleTime := 60
  purgeTime := 60
  stripLimit := 600
  transferLimit := 14400
  heelWindows := 10
  travelLimit := 30
  strokeLimitL := 5000
  strokeLimitV := 5000

/-- The spot record after power-on reset (R3), and after Restart with the configuration kept. -/
def SpotRecord.fresh (config : SpotConfig) : SpotRecord where
  state := .vacant
  car := none
  stripRequested := false
  endReason := none
  seqFlags := ⟨false, false, false⟩
  resumePhase := none
  holdReason := none
  trip := none
  bypass := ⟨false, false⟩
  valveL := .closed
  valveV := .closed
  openDeferred := ⟨false, false⟩
  closingRead := .none
  purgeExpired := false
  settle := .stopped
  window := .stopped
  strip := .stopped
  purge := .stopped
  limitMs := 0
  limitRunning := false
  travelL := .stopped
  travelV := .stopped
  config := config

/-- The metering record after power-on reset and Restart (R49). -/
def Meter.fresh : Meter where
  volume := 0
  liquid := 0
  vapourReturned := 0
  vapourRecovered := 0
  rv := 0
  rm := 0
  rr := 0
  rc := 0
  windowsCounted := 0
  estimatedWindows := 0
  heelCountdown := 0
  heldRun := 0
  flags := ⟨false, false, false, false, false, false, false⟩
  heldT := ⟨1500, false⟩
  heldDp := ⟨0, false⟩
  heldPv := ⟨100, false⟩
  heldCarPressure := 0
  windowRead := none
  closingRequest := false

/-- The compressor record in a given reversing-valve position (R89): PUSH after power-on, kept by Restart. -/
def Compressor.fresh (position : Duty) : Compressor where
  mode := .idle
  position := position
  target := none
  pushHolders := []
  pullHolder := none
  spacing := .stopped
  changeover := .stopped
  pushGrantAge := none
  age := .stopped
  queue := []

/-- A valve proof record after power-on reset (R127). -/
def ProofRecord.powerOn : ProofRecord where
  state := .due
  elapsed := 65535
  lastResult := none
  lastTravel := none
  faultSource := none

/-- The proof scheduler after power-on reset (R127): proof step 60 s, hour timer 3600 s, both running. -/
def ProofUnit.powerOn : ProofUnit where
  records := Vector.replicate 12 ProofRecord.powerOn
  cursor := 0
  stepTimer := .running 60000
  hourTimer := .running 3600000
  stroke := none

/-- The inputs a station record holds after power-on (R152). -/
def Inputs.powerOn : Inputs := ⟨false, false, false, false⟩

/-- A station record after power-on reset (R152). -/
def Station.powerOn : Station where
  status := .absent
  misses := 0
  inputs := Inputs.powerOn
  positions := none
  booked := 0
  ackOutstanding := none
  recovery := .stopped

/-- The link scheduler after power-on reset (R165), with the attention line's level. -/
def Link.powerOn (attentionLine : Bool) : Link where
  stations := Vector.replicate 6 Station.powerOn
  entries := []
  inFlight := none
  mask := []
  pollHoldOff := .stopped
  attentionLine := attentionLine

/-- The siding configuration after power-on (R194). -/
def SidingConfig.powerOn : SidingConfig where
  window := 1000
  startSpacing := 30
  changeoverTime := 20
  proofInterval := 168
  leadTime := 24
  proofStep := 60

/-- The line unit after power-on reset (R198): HUNT, buffer empty, gap timer loaded; the rate read from the strap. -/
def LineUnit.powerOn (rate : LineRate) : LineUnit where
  mode := .hunt
  buffer := []
  gap := .running 20
  discardNoted := false
  request := none
  reply := none
  rate := rate

/-- Every block at its power-on values (R198), for given pin levels; the queue and the counter of free choices are
not the block's. -/
def State.powerOn (pins : PinLevels) (pending : List Instr) (choices : Nat) : State where
  pending := pending
  line := LineUnit.powerOn pins.strap
  manifest := []
  spots := Vector.replicate 6 (SpotRecord.fresh SpotConfig.powerOn)
  meters := Vector.replicate 6 Meter.fresh
  grades := Vector.replicate 4 none
  comp := Compressor.fresh .push
  proof := ProofUnit.powerOn
  link := Link.powerOn pins.attentionLine
  tickets := ⟨1, [], []⟩
  siding :=
    { mode := .shut, stopActive := pins.sidingStop, faultActive := pins.compressorFault,
      runInput := pins.compressorRun, config := SidingConfig.powerOn }
  choices := choices

/-- The pin levels `State.reset` is given: the spec fixes none (R120, R182). DESIGN CHOICE, log 8. -/
def PinLevels.named : PinLevels := ⟨.baud9600, false, false, false, false⟩

/-- The machine right after power-on reset, with an empty queue. -/
def State.reset : State := State.powerOn PinLevels.named [] 0

end Sys2Proof.Machine
end

