-- ==== Sys2Proof/Machine/Access.lean ====
section
/-! DEFINITION. Reading and writing one record of the state: every meaning goes through these. -/

namespace Sys2Proof.Machine

/-! ## Timers (00_scope 4.6) -/

/-- A timer that runs. -/
def Timer.isRunning : Timer → Bool
  | .stopped => false
  | .running _ => true

/-- A timer whose countdown has reached 0 and whose expiry is owed. -/
def Timer.isDue : Timer → Bool
  | .running 0 => true
  | _ => false

/-- One ms passes. -/
def Timer.tick : Timer → Timer
  | .stopped => .stopped
  | .running ms => .running (ms - 1)

/-- A timer loaded with whole seconds. -/
def Timer.seconds (s : Nat) : Timer := .running (1000 * s)

/-- Remaining whole seconds rounded down (R105), or none when stopped. -/
def Timer.wholeSeconds : Timer → Option Nat
  | .stopped => none
  | .running ms => some (ms / 1000)

/-- Remaining ms, 0 when stopped. -/
def Timer.remaining : Timer → Nat
  | .stopped => 0
  | .running ms => ms

/-! ## Spots, meters, stations, valves -/

namespace State

/-- The spot record of a spot. -/
def spot (s : State) (n : SpotNo) : SpotRecord := s.spots[n.val]

/-- Write the spot record of a spot. -/
def setSpot (s : State) (n : SpotNo) (r : SpotRecord) : State := { s with spots := s.spots.set n.val r }

/-- Change the spot record of a spot. -/
def onSpot (s : State) (n : SpotNo) (f : SpotRecord → SpotRecord) : State := s.setSpot n (f (s.spot n))

/-- The metering record of a spot. -/
def meter (s : State) (n : SpotNo) : Meter := s.meters[n.val]

/-- Write the metering record of a spot. -/
def setMeter (s : State) (n : SpotNo) (m : Meter) : State := { s with meters := s.meters.set n.val m }

/-- Change the metering record of a spot. -/
def onMeter (s : State) (n : SpotNo) (f : Meter → Meter) : State := s.setMeter n (f (s.meter n))

/-- The grade record of a grade, or none when it is not loaded. -/
def grade (s : State) (g : GradeNo) : Option Grade := s.grades[g.val]

/-- Load a grade. -/
def setGrade (s : State) (g : GradeNo) (r : Grade) : State := { s with grades := s.grades.set g.val (some r) }

/-- The station record of a station. -/
def station (s : State) (n : SpotNo) : Station := s.link.stations[n.val]

/-- Write the station record of a station. -/
def setStation (s : State) (n : SpotNo) (r : Station) : State :=
  { s with link := { s.link with stations := s.link.stations.set n.val r } }

/-- Change the station record of a station. -/
def onStation (s : State) (n : SpotNo) (f : Station → Station) : State := s.setStation n (f (s.station n))

/-- The proof record of a valve. -/
def proofRecord (s : State) (v : ValveIndex) : ProofRecord := s.proof.records[v.val]

/-- Write the proof record of a valve. -/
def setProofRecord (s : State) (v : ValveIndex) (r : ProofRecord) : State :=
  { s with proof := { s.proof with records := s.proof.records.set v.val r } }

/-- Replace the compressor record and queue. -/
def setComp (s : State) (c : Compressor) : State := { s with comp := c }

/-- Replace the link scheduler's state. -/
def setLink (s : State) (l : Link) : State := { s with link := l }

/-- Replace the ticket unit's state. -/
def setTickets (s : State) (t : TicketUnit) : State := { s with tickets := t }

/-- Replace the manifest. -/
def setManifest (s : State) (m : List CarRecord) : State := { s with manifest := m }

/-- Replace the siding unit's state. -/
def setSiding (s : State) (d : Siding) : State := { s with siding := d }

/-- Replace the line unit's state. -/
def setLine (s : State) (l : LineUnit) : State := { s with line := l }

/-- Replace the stroke in flight. -/
def setStroke (s : State) (k : Option Stroke) : State := { s with proof := { s.proof with stroke := k } }

/-- The grade record of the car bound to a spot, or none with no car or a grade not loaded (R81). -/
def carGrade (s : State) (n : SpotNo) : Option Grade :=
  match (s.spot n).car with
  | some c => s.grade c.grade
  | none => none

end State

/-- The valve index of a valve of a spot (00_scope 4.1). -/
def valveIndex (n : SpotNo) : ValveSide → ValveIndex
  | .liquid => ⟨2 * n.val, by omega⟩
  | .vapour => ⟨2 * n.val + 1, by omega⟩

/-- The spot of a valve index. -/
def valveSpot (v : ValveIndex) : SpotNo := ⟨v.val / 2, by omega⟩

/-- The side of a valve index. -/
def valveSideOf (v : ValveIndex) : ValveSide := if v.val % 2 = 0 then .liquid else .vapour

/-- The command state of a valve of a spot. -/
def SpotRecord.valve (r : SpotRecord) : ValveSide → ValveCommand
  | .liquid => r.valveL
  | .vapour => r.valveV

/-- Write the command state of a valve of a spot. -/
def SpotRecord.setValve (r : SpotRecord) (side : ValveSide) (c : ValveCommand) : SpotRecord :=
  match side with
  | .liquid => { r with valveL := c }
  | .vapour => { r with valveV := c }

/-- The travel timer of a valve of a spot. -/
def SpotRecord.travel (r : SpotRecord) : ValveSide → Timer
  | .liquid => r.travelL
  | .vapour => r.travelV

/-- Write the travel timer of a valve of a spot. -/
def SpotRecord.setTravel (r : SpotRecord) (side : ValveSide) (t : Timer) : SpotRecord :=
  match side with
  | .liquid => { r with travelL := t }
  | .vapour => { r with travelV := t }

/-- Whether a valve is in a set of valves. -/
def ValveSet.has (s : ValveSet) : ValveSide → Bool
  | .liquid => s.l
  | .vapour => s.v

/-- The empty set of valves. -/
def ValveSet.none : ValveSet := ⟨false, false⟩

/-- Both valves. -/
def ValveSet.both : ValveSet := ⟨true, true⟩

/-- Whether a set of valves is empty. -/
def ValveSet.isEmpty (s : ValveSet) : Bool := !s.l && !s.v

/-- The union of two sets of valves. -/
def ValveSet.union (a b : ValveSet) : ValveSet := ⟨a.l || b.l, a.v || b.v⟩

end Sys2Proof.Machine
end

