-- ==== Sys2Proof/Machine/Flags.lean ====
section
/-! DEFINITION. Every condition the block judges: trip-armed states, permissives, trip causes, the freeze of grants, the
conditions of a stroke and of RESTART, the summary, and the mode outputs. -/

namespace Sys2Proof.Machine

/-- The trip-armed states (R108). -/
def SpotState.armed : SpotState → Bool
  | .connected | .ready | .startWait | .transfer | .stripWait | .strip | .held | .purge => true
  | .vacant | .assigned | .ticketWait | .complete | .tripped => false

/-- TRANSFER or STRIP: the states in which product moves. -/
def SpotState.moving : SpotState → Bool
  | .transfer | .strip => true
  | _ => false

/-- The states in which SPOT_HOLD and a change to SHUT act (R20, R122). -/
def SpotState.holdable : SpotState → Bool
  | .startWait | .transfer | .stripWait | .strip => true
  | _ => false

/-! ## Permissives (R9) -/

/-- The eleven permissives in position order. -/
def Permissive.all : List Permissive :=
  [.bond, .arms, .remote, .gasClear, .esdClear, .proofCurrent, .valveHealth, .carPressure, .gradeLoaded,
   .sidingRun, .valvesAtRest]

/-- A permissive's fixed position (R9). -/
def Permissive.position : Permissive → Nat
  | .bond => 0
  | .arms => 1
  | .remote => 2
  | .gasClear => 3
  | .esdClear => 4
  | .proofCurrent => 5
  | .valveHealth => 6
  | .carPressure => 7
  | .gradeLoaded => 8
  | .sidingRun => 9
  | .valvesAtRest => 10

/-- Whether a stroke is in flight on either valve of a spot. -/
def State.strokeOn (s : State) (n : SpotNo) : Bool :=
  match s.proof.stroke with
  | some k => valveSpot k.valve == n
  | none => false

/-- Whether a permissive of a spot is true: R9's column "True when". The permissive set of a spot is the set of the
permissives true by this (log 13). -/
def State.permissive (s : State) (n : SpotNo) : Permissive → Bool
  | .bond => (s.station n).inputs.bond
  | .arms => (s.station n).inputs.arms
  | .remote => (s.station n).status == .online
  | .gasClear => !(s.station n).inputs.gas
  | .esdClear => !(s.station n).inputs.esd
  | .proofCurrent =>
    (s.proofRecord (valveIndex n .liquid)).state != .due && (s.proofRecord (valveIndex n .vapour)).state != .due
  | .valveHealth =>
    (s.proofRecord (valveIndex n .liquid)).state != .failed && (s.proofRecord (valveIndex n .vapour)).state != .failed
  | .carPressure =>
    match s.carGrade n with
    | some g => (s.meter n).heldCarPressure ≤ g.maxPressure
    | none => false
  | .gradeLoaded => (s.carGrade n).isSome
  | .sidingRun => s.siding.mode == .run && !s.siding.stopActive
  | .valvesAtRest => !s.strokeOn n

/-- Whether a permissive is in a bypass set (R10: PROOF_CURRENT and CAR_PRESSURE alone can be). -/
def Bypass.has (b : Bypass) : Permissive → Bool
  | .proofCurrent => b.proofCurrent
  | .carPressure => b.carPressure
  | _ => false

/-- Whether a bypass set is non-empty. -/
def Bypass.nonEmpty (b : Bypass) : Bool := b.proofCurrent || b.carPressure

/-- The permissive set, in position order. -/
def State.permissives (s : State) (n : SpotNo) : List Permissive := Permissive.all.filter (s.permissive n)

/-- The failing permissives: false and not in the bypass set, in position order (R11). -/
def State.failing (s : State) (n : SpotNo) : List Permissive :=
  Permissive.all.filter fun p => !s.permissive n p && !(s.spot n).bypass.has p

/-! ## Trip causes (R107) -/

/-- The ten causes in number order. -/
def TripCause.all : List TripCause :=
  [.esd, .gas, .sidingStop, .bondLost, .armsLost, .stationLost, .stationLocal, .valveFault, .overpressure,
   .sensorFault]

/-- A cause's fixed number (R107). -/
def TripCause.number : TripCause → Nat
  | .esd => 1
  | .gas => 2
  | .sidingStop => 3
  | .bondLost => 4
  | .armsLost => 5
  | .stationLost => 6
  | .stationLocal => 7
  | .valveFault => 8
  | .overpressure => 9
  | .sensorFault => 10

/-- The condition under which a level cause arises, R107's column "Arises"; the event causes have none. -/
def State.levelCondition (s : State) (n : SpotNo) : TripCause → Bool
  | .esd => (s.station n).inputs.esd
  | .gas => (s.station n).inputs.gas
  | .sidingStop => s.siding.stopActive
  | .bondLost => !(s.station n).inputs.bond
  | .armsLost => !(s.station n).inputs.arms
  | .stationLost => (s.station n).status == .lost
  | .stationLocal => (s.station n).status == .localOp
  | .valveFault | .overpressure | .sensorFault => false

/-- Whether metering of the spot's car has begun: a window counted, or end_reason present (R107, R117, R196). -/
def State.metered (s : State) (n : SpotNo) : Bool :=
  0 < (s.meter n).windowsCounted || (s.spot n).endReason.isSome

/-- A valve stands CLOSING with its travel timer stopped (R107). -/
def SpotRecord.closeUnconfirmed (r : SpotRecord) (side : ValveSide) : Bool :=
  r.valve side == .closing && !(r.travel side).isRunning

/-- Whether a cause is present, R107's column "Present while". -/
def State.causePresent (s : State) (n : SpotNo) : TripCause → Bool
  | .bondLost => !(s.station n).inputs.bond && s.metered n
  | .armsLost => !(s.station n).inputs.arms && s.metered n
  | .valveFault => (s.spot n).closeUnconfirmed .liquid || (s.spot n).closeUnconfirmed .vapour
  | .overpressure | .sensorFault => false
  | .esd => s.levelCondition n .esd
  | .gas => s.levelCondition n .gas
  | .sidingStop => s.levelCondition n .sidingStop
  | .stationLost => s.levelCondition n .stationLost
  | .stationLocal => s.levelCondition n .stationLocal

/-- The causes present at a spot, in number order. -/
def State.causesPresent (s : State) (n : SpotNo) : List TripCause := TripCause.all.filter (s.causePresent n)

/-- A level cause (R107). -/
def TripCause.isLevel : TripCause → Bool
  | .valveFault | .overpressure | .sensorFault => false
  | _ => true

/-- The level causes present at a spot, in number order. -/
def State.levelsPresent (s : State) (n : SpotNo) : List TripCause :=
  TripCause.all.filter fun c => c.isLevel && s.causePresent n c

/-- The union of two cause sets, in number order. -/
def causeUnion (a b : List TripCause) : List TripCause := TripCause.all.filter fun c => a.contains c || b.contains c

/-- The level causes whose condition changed from false (in `old`) to true (in `s`), in number order (R108). -/
def State.risen (s old : State) (n : SpotNo) : List TripCause :=
  TripCause.all.filter fun c => s.levelCondition n c && !old.levelCondition n c

/-! ## The compressor -/

/-- Grants are frozen while the siding is QUIET or SHUT or the compressor fault state is active (R93). -/
def State.frozen (s : State) : Bool := s.siding.mode != .run || s.siding.faultActive

/-- The run request output (R104). -/
def Compressor.runRequest (c : Compressor) : Bool := c.mode == .push || c.mode == .pull

/-- The reversing output (R104). -/
def Compressor.reversing (c : Compressor) : Duty :=
  match c.mode with
  | .idle => c.position
  | .push => .push
  | .pull => .pull
  | .changeover => c.target.getD c.position

/-! ## Proofs, RESTART, the summary -/

/-- Conditions 1, 2, 4, 5 and 6 of R132 for the spot of a valve, and condition 3. -/
def State.mayStroke (s : State) (v : ValveIndex) : Bool :=
  let n := valveSpot v
  let r := s.spot n
  r.config.present && r.state == .vacant && s.proof.stroke.isNone && r.valveL == .closed && r.valveV == .closed
    && (s.station n).status == .online && !s.siding.stopActive

/-- Whether the cursor finds a valve eligible (R140). -/
def State.eligible (s : State) (v : ValveIndex) : Bool :=
  let p := s.proofRecord v
  p.state == .due || p.state == .failed
    || s.siding.config.proofInterval ≤ p.elapsed + s.siding.config.leadTime

/-- The states in which a metered car refuses RESTART (R181, R196). -/
def SpotState.beforeTicket : SpotState → Bool
  | .startWait | .transfer | .stripWait | .strip | .held | .purge | .tripped => true
  | _ => false

/-- The spots whose metered car refuses RESTART (R196). -/
def State.restartBlockers (s : State) : List SpotNo :=
  allSpots.filter fun n => (s.spot n).state.beforeTicket && s.metered n

/-- The states that make SIDING_CONFIG BUSY (R195). -/
def SpotState.working : SpotState → Bool
  | .startWait | .transfer | .stripWait | .strip | .held | .purge => true
  | _ => false

/-- The spots that make SIDING_CONFIG BUSY (R195). -/
def State.workingSpots (s : State) : List SpotNo := allSpots.filter fun n => (s.spot n).state.working

/-- The spots whose car is of a grade (R86, R88). -/
def State.spotsOfGrade (s : State) (g : GradeNo) : List SpotNo :=
  allSpots.filter fun n => (s.spot n).car.any fun c => c.grade == g

/-- The summary of R189. -/
def State.summary (s : State) : Summary where
  tickets := s.tickets.queue.length
  tripped := allSpots.filter fun n => (s.spot n).state == .tripped
  notCurrent := (allValves.filter fun v => (s.proofRecord v).state != .current).length
  sidingMode := s.siding.mode
  compressorMode := s.comp.mode

end Sys2Proof.Machine
end

