-- ==== Sys2Proof/WellFormed.lean ====
section
/-! DEFINITION. Which terms of `Instr` are events the block can meet: the checks of operand shapes that the types do
not make. -/

namespace Sys2Proof

/-- The wire code of a kind (R145). -/
def LinkKind.code : LinkKind → Nat
  | .initStation => 1
  | .close => 2
  | .attentionPoll => 3
  | .sampleRead => 4
  | .countAck => 5
  | .valveOpen => 6
  | .stroke => 7
  | .clear => 8

/-- The codes of the request table of R190 are 0x01 to 0x18. -/
def isRequestCode (code : Byte) : Bool := 1 ≤ code.toNat && code.toNat ≤ 24

/-- A frame's body is 0 to 1023 bytes (R183). -/
def bodyFits (body : List Byte) : Bool := body.length ≤ 1023

/-- A frame taken as a reply of this kind echoes the kind in its byte 1 (R145). -/
def frameOfKind (kind : LinkKind) (frame : List Byte) : Bool :=
  (frame.getD 1 0).toNat == kind.code

/-- A well-formed command. -/
def Instr.wellFormed : Instr → Bool
  | .unsupportedRequest code _ body => !isRequestCode code && bodyFits body
  | .carAdd _ body | .carWithdraw _ body | .carMove _ body | .carList _ body
  | .spotAssign _ body | .spotRelease _ body | .spotStart _ body | .spotHold _ body
  | .spotResume _ body | .spotStop _ body | .spotReset _ body | .spotOverride _ body
  | .spotConfig _ body | .spotsRead _ body | .gradeLoad _ body | .gradeRead _ body
  | .sidingConfig _ body | .sidingMode _ body | .proofRequest _ body | .proofRead _ body
  | .ticketRead _ body | .ticketRelease _ body | .status _ body | .restart _ body => bodyFits body
  | .holdOffExpiry _ kind => kind != .attentionPoll
  | .initializeReply frame => frameOfKind .initStation frame
  | .closeReply frame => frameOfKind .close frame
  | .valveOpenReply frame => frameOfKind .valveOpen frame
  | .sampleReadReply frame => frameOfKind .sampleRead frame
  | .countAckReply frame => frameOfKind .countAck frame
  | .strokeReply frame => frameOfKind .stroke frame
  | .clearReply frame => frameOfKind .clear frame
  | .attentionPollComplete slots => slots.length == 6
  | .powerOnReset _ | .lineByteReceived _ | .lineFramingError | .gapTimerExpiry | .replyLastByteSent
  | .sidingStopActive | .sidingStopClear | .compressorFaultActive | .compressorFaultClear
  | .compressorRunChange _ | .attentionLineActive _
  | .settleTimerExpiry _ | .windowTimerExpiry _ | .transferLimitExpiry _ | .stripTimerExpiry _
  | .purgeTimerExpiry _ | .travelTimerExpiry _ _ | .spacingTimerExpiry | .changeoverTimerExpiry
  | .ageTimerExpiry | .hourTimerExpiry | .proofStepTimerExpiry | .strokeTimerExpiry
  | .pollHoldOffExpiry | .recoveryTimerExpiry _ | .transactionSend | .spotLinkMiss => true

end Sys2Proof
end

