-- ==== Sys2Proof/Machine/Operands.lean ====
section
/-! DEFINITION. Operand forms: the byte fields of both lines, the two CRCs, the frames, and the reading of the fields a
request or a station's reply carries. -/

namespace Sys2Proof.Machine

/-! ## Byte fields, least significant byte first (00_scope 4.4) -/

/-- The byte at an offset. -/
def byteAt (b : List Byte) (off : Nat) : Byte := b.getD off 0

/-- The one-byte number at an offset. -/
def num1 (b : List Byte) (off : Nat) : Nat := (byteAt b off).toNat

/-- The two-byte number at an offset. -/
def num2 (b : List Byte) (off : Nat) : Nat := num1 b off + 256 * num1 b (off + 1)

/-- The four-byte number at an offset. -/
def num4 (b : List Byte) (off : Nat) : Nat := num2 b off + 65536 * num2 b (off + 2)

/-- The signed two-byte number at an offset, two's complement (R191). -/
def int2 (b : List Byte) (off : Nat) : Int :=
  if num2 b off < 32768 then (num2 b off : Int) else (num2 b off : Int) - 65536

/-- `count` bytes from an offset. -/
def bytesAt (b : List Byte) (off count : Nat) : List Byte := (b.drop off).take count

/-- Bit `i` of a number. -/
def bit (n i : Nat) : Bool := n.testBit i

/-- A number as `count` bytes, least significant first. -/
def leBytes : Nat → Nat → List Byte
  | 0, _ => []
  | count + 1, n => BitVec.ofNat 8 n :: leBytes count (n / 256)

/-- A signed number as `count` bytes in two's complement, least significant first (R191). -/
def leBytesInt (count : Nat) (n : Int) : List Byte := leBytes count (n % (256 ^ count : Nat)).toNat

/-- Bytes padded with 0 to a width. -/
def padTo (width : Nat) (b : List Byte) : List Byte := b ++ List.replicate (width - b.length) 0

/-- A character field: a length byte, then the characters padded with 0 to `width` bytes (R191, R199). -/
def charField (width : Nat) (chars : List Byte) : List Byte :=
  BitVec.ofNat 8 chars.length :: padTo width chars

/-! ## The two CRCs -/

/-- One shift of the CRC-8 register: polynomial 0x07, most significant bit first (R144). -/
def crc8Shift (r : BitVec 8) : BitVec 8 := if r.msb then (r <<< 1) ^^^ 0x07#8 else r <<< 1

/-- The CRC-8 register after one more byte. -/
def crc8Byte (r : BitVec 8) (b : Byte) : BitVec 8 :=
  crc8Shift (crc8Shift (crc8Shift (crc8Shift (crc8Shift (crc8Shift (crc8Shift (crc8Shift (r ^^^ b))))))))

/-- CRC-8 of the spot link: initial value 0, no final inversion (R144). -/
def crc8 (b : List Byte) : Byte := b.foldl crc8Byte 0

/-- One shift of the CRC-16 register: polynomial 0x1021, most significant bit first (R184). -/
def crc16Shift (r : BitVec 16) : BitVec 16 := if r.msb then (r <<< 1) ^^^ 0x1021#16 else r <<< 1

/-- The CRC-16 register after one more byte. -/
def crc16Byte (r : BitVec 16) (b : Byte) : BitVec 16 :=
  crc16Shift (crc16Shift (crc16Shift (crc16Shift (crc16Shift (crc16Shift (crc16Shift (crc16Shift
    (r ^^^ (b.zeroExtend 16 <<< 8)))))))))

/-- CRC-16 of the supervisory line: initial value 0xFFFF, no inversion (R184). -/
def crc16 (b : List Byte) : BitVec 16 := b.foldl crc16Byte 0xFFFF#16

/-! ## Supervisory frames (R183) -/

/-- A frame of the supervisory line: lead, length, code, tag, body, CRC. -/
def lineFrame (code tag : Byte) (body : List Byte) : List Byte :=
  let covered := leBytes 2 (body.length + 2) ++ code :: tag :: body
  0xC3#8 :: covered ++ leBytes 2 (crc16 covered).toNat

/-- Whether the CRC of a whole frame in the receive buffer checks: the CRC is taken from the first byte of the length
through the last byte of the body (R184). -/
def lineCrcChecks (buffer : List Byte) : Bool :=
  (crc16 ((buffer.drop 1).take (buffer.length - 3))).toNat == num2 buffer (buffer.length - 2)

/-! ## Spot-link frames (R145) -/

/-- The address byte: the station's number, or 15 for the broadcast (R144). -/
def addressByte (station : Option SpotNo) : Byte :=
  match station with
  | some n => BitVec.ofNat 8 n.val
  | none => 15

/-- A request frame on the spot link. -/
def linkRequestFrame (station : Option SpotNo) (kind : LinkKind) (data : List Byte) : List Byte :=
  let covered := addressByte station :: BitVec.ofNat 8 kind.code :: BitVec.ofNat 8 data.length :: data
  covered ++ [crc8 covered]

/-- A reply frame on the spot link, with its flags byte and data. -/
def linkReplyFrame (station : SpotNo) (kind : LinkKind) (flags : Byte) (data : List Byte) : List Byte :=
  let covered := addressByte (some station) :: BitVec.ofNat 8 kind.code ::
    BitVec.ofNat 8 (data.length + 1) :: flags :: data
  covered ++ [crc8 covered]

/-- How many bytes a reply of a kind has from the flags through the last data byte (R145). -/
def replyLength : LinkKind → Nat
  | .initStation => 1
  | .close => 2
  | .attentionPoll => 2
  | .sampleRead => 16
  | .countAck => 3
  | .valveOpen => 2
  | .stroke => 3
  | .clear => 1

/-- A reply that met the rules of R144: its flags, and its data after the flags. -/
structure LinkReply where
  present : Bool
  done : Bool
  localOp : Bool
  data : List Byte
  deriving DecidableEq, Repr

/-- The flags and data of a reply frame (R145: bit 0 PRESENT, bit 1 DONE, bit 2 LOCAL). -/
def readReply (frame : List Byte) : LinkReply :=
  let flags := num1 frame 3
  { present := bit flags 0, done := bit flags 1, localOp := bit flags 2,
    data := (frame.drop 4).take (num1 frame 2 - 1) }

/-- Whether the bytes received are a valid reply of this station and kind (R144): they reach the length the frame
declares, the CRC-8 checks, the address and kind are the request's, and the length is the kind's, or 1 with PRESENT
clear. Bytes after the frame's end are disregarded. -/
def replyValid (station : SpotNo) (kind : LinkKind) (frame : List Byte) : Bool :=
  num1 frame 2 + 4 ≤ frame.length
    && byteAt frame (num1 frame 2 + 3) == crc8 (frame.take (num1 frame 2 + 3))
    && byteAt frame 0 == addressByte (some station)
    && num1 frame 1 == kind.code
    && (num1 frame 2 == replyLength kind || (num1 frame 2 == 1 && !bit (num1 frame 3) 0))

/-- The reply taken from the bytes received for a station and kind, or none where R144 declares a miss. -/
def takeFrame (station : SpotNo) (kind : LinkKind) (frame : List Byte) : Option LinkReply :=
  if replyValid station kind frame then some (readReply frame) else none

/-- The inputs byte (R145). -/
def readInputs (b : Nat) : Inputs := ⟨bit b 0, bit b 1, bit b 2, bit b 3⟩

/-- One reported valve position; 3 is taken as TRAVEL (R145). -/
def readPosition (v : Nat) : ValvePosition :=
  if v == 0 then .closed else if v == 1 then .opened else .travel

/-- The valve positions byte (R145). -/
def readPositions (b : Nat) : Positions := ⟨readPosition (b % 4), readPosition (b / 4 % 4)⟩

/-- What a SAMPLE_READ reply reports (R145). A reading that is not valid is absent. -/
structure Sample where
  seq : Byte
  total : Nat
  overrun : Bool
  temp : Option Int
  dp : Option Nat
  pv : Option Nat
  carPressure : Option Nat
  inputs : Inputs
  positions : Positions
  deriving DecidableEq, Repr

/-- The data of a SAMPLE_READ reply (R145): sequence 0, total 1, overrun 3, T 4, dp 6, Pv 8, car pressure 10,
validity 12, inputs 13, positions 14. An overrun byte other than 0 is taken as raised (log 15). -/
def readSample (d : List Byte) : Sample :=
  let validity := num1 d 12
  { seq := byteAt d 0
    total := num2 d 1
    overrun := num1 d 3 != 0
    temp := if bit validity 0 then some (int2 d 4) else none
    dp := if bit validity 1 then some (num2 d 6) else none
    pv := if bit validity 2 then some (num2 d 8) else none
    carPressure := if bit validity 3 then some (num2 d 10) else none
    inputs := readInputs (num1 d 13)
    positions := readPositions (num1 d 14) }

/-- The data bytes of a transaction's request frame (R145). -/
def Txn.requestData : Txn → List Byte
  | .countAck seq amount => seq :: leBytes 2 amount
  | .valveOpen valves => [BitVec.ofNat 8 ((if valves.l then 1 else 0) + (if valves.v then 2 else 0))]
  | .stroke .liquid => [0]
  | .stroke .vapour => [1]
  | .initStation _ | .close | .attentionPoll | .sampleRead _ | .clear => []

/-- The kind of a transaction. -/
def Txn.kind : Txn → LinkKind
  | .initStation _ => .initStation
  | .close => .close
  | .attentionPoll => .attentionPoll
  | .sampleRead _ => .sampleRead
  | .countAck _ _ => .countAck
  | .valveOpen _ => .valveOpen
  | .stroke _ => .stroke
  | .clear => .clear

/-- The request frame of the transaction in flight, as it stands on the spot link (R145). -/
def InFlight.frame (f : InFlight) : List Byte :=
  linkRequestFrame f.entry.station f.entry.txn.kind f.entry.txn.requestData

/-! ## Fields of requests (R190, R191, R199) -/

/-- A spot number above 5 names no spot (R4). -/
def spotOf (n : Nat) : Option SpotNo := if h : n < 6 then some ⟨n, h⟩ else none

/-- A grade number above 3 names no grade (R85, R88). -/
def gradeOf (n : Nat) : Option GradeNo := if h : n < 4 then some ⟨n, h⟩ else none

/-- A valve index above 11 names no valve (R142). -/
def valveOf (n : Nat) : Option ValveIndex := if h : n < 12 then some ⟨n, h⟩ else none

/-- A character of code 32 to 126 (R35, R76). -/
def isPrintable (c : Byte) : Bool := 32 ≤ c.toNat && c.toNat ≤ 126

/-- The character rules of a car id and of a label: 1 to `width` characters of code 32 to 126, the first and last not
a space (R35, R76). -/
def charsValid (width : Nat) (chars : List Byte) : Bool :=
  1 ≤ chars.length && chars.length ≤ width && chars.all isPrintable
    && chars.head? != some 32#8 && chars.getLast? != some 32#8

/-- The characters of a character field at an offset: a length byte, then `width` character bytes, those beyond the
length disregarded; none where the length or a character breaks the rules (R191, R199). -/
def readChars (width : Nat) (b : List Byte) (off : Nat) : Option (List Byte) :=
  let len := num1 b off
  let chars := bytesAt b (off + 1) len
  if 1 ≤ len && len ≤ width && charsValid width chars then some chars else none

/-- A car id field of 13 bytes (R199), or none where it breaks the character rules of R35. -/
def readCarId (b : List Byte) (off : Nat) : Option (List Byte) := readChars 12 b off

/-- The spots of a set byte, ascending (R191). -/
def readSpotSet (b : Nat) : List SpotNo := allSpots.filter fun n => bit b n.val

/-- A mass of a car record: 1 to 120,000 kg (R35). -/
def massValid (m : Nat) : Bool := 1 ≤ m && m ≤ 120000

/-- A car record of 24 bytes (R199), or none where it is not valid by R35. The value bytes of an absent field are
disregarded. -/
def readCarRecord (b : List Byte) : Option CarRecord :=
  let presence := num1 b 14
  let declared := if bit presence 0 then some (num4 b 15) else none
  let target := if bit presence 1 then some (num4 b 19) else none
  let set := if bit presence 2 then some (num1 b 23) else none
  match readCarId b 0, gradeOf (num1 b 13) with
  | some id, some grade =>
    if declared.all massValid && target.all massValid && set.all (fun v => 1 ≤ v && v < 64) then
      some { carId := id, grade := grade, declaredMass := declared, targetMass := target,
             spotSet := set.map readSpotSet }
    else none
  | _, _ => none

/-- Whether a number lies in a range that includes both ends (00_scope 4.2). -/
def inRange (lo hi n : Nat) : Bool := lo ≤ n && n ≤ hi

/-- The spot configuration carried by SPOT_CONFIG (R190), or none where a field lies outside its range (R2, R191). -/
def readSpotConfig (b : List Byte) : Option SpotConfig :=
  let c : SpotConfig :=
    { present := num1 b 1 == 1
      k := num4 b 2
      co := num2 b 6
      dpCutoff := num2 b 8
      settleTime := num2 b 10
      purgeTime := num2 b 12
      stripLimit := num2 b 14
      transferLimit := num2 b 16
      heelWindows := num1 b 18
      travelLimit := num1 b 19
      strokeLimitL := num2 b 20
      strokeLimitV := num2 b 22 }
  if num1 b 1 ≤ 1 && inRange 1000 1000000 c.k && inRange 1 4095 c.co && inRange 0 500 c.dpCutoff
      && inRange 10 600 c.settleTime && inRange 10 900 c.purgeTime && inRange 60 3600 c.stripLimit
      && inRange 600 43200 c.transferLimit && inRange 2 60 c.heelWindows && inRange 5 60 c.travelLimit
      && inRange 100 20000 c.strokeLimitL && inRange 100 20000 c.strokeLimitV then
    some c
  else none

/-- The siding configuration carried by SIDING_CONFIG (R190). -/
def readSidingConfig (b : List Byte) : SidingConfig where
  window := num2 b 0
  startSpacing := num1 b 2
  changeoverTime := num1 b 3
  proofInterval := num2 b 4
  leadTime := num1 b 6
  proofStep := num2 b 7

/-- The place, 1 to 6, of the first field that fails checks 1 and 2 of R195, or none. -/
def SidingConfig.badPlace (c : SidingConfig) : Option Nat :=
  if !(inRange 500 2000 c.window && c.window % 250 == 0) then some 1
  else if !inRange 0 120 c.startSpacing then some 2
  else if !inRange 5 120 c.changeoverTime then some 3
  else if !inRange 1 720 c.proofInterval then some 4
  else if !inRange 0 72 c.leadTime then some 5
  else if !inRange 10 600 c.proofStep then some 6
  else if !(c.leadTime < c.proofInterval) then some 5
  else none

/-- A siding mode code (R202). -/
def readSidingMode (n : Nat) : Option SidingMode :=
  match n with
  | 0 => some .run
  | 1 => some .quiet
  | 2 => some .shut
  | _ => none

/-- A rounding mode code (R202). -/
def readRoundingMode (n : Nat) : Option RoundingMode :=
  match n with
  | 0 => some .nearestEven
  | 1 => some .towardZero
  | 2 => some .up
  | 3 => some .down
  | _ => none

/-- The breakpoints of a GRADE_LOAD body: `count` pairs from an offset, T (signed) and ρ (R190). -/
def readBreakpoints (b : List Byte) : Nat → Nat → List Breakpoint
  | 0, _ => []
  | count + 1, off => ⟨int2 b off, num2 b (off + 2)⟩ :: readBreakpoints b count (off + 4)

/-- The body length R190 gives GRADE_LOAD for the breakpoint count in byte 17 (R191). -/
def gradeLoadLength (b : List Byte) : Nat := 18 + 4 * num1 b 17

/-- The first breakpoint fault of order 4 of R85, as the item's code (R191) and the breakpoint's number. -/
def breakpointFault : Nat → Option Int → List Breakpoint → Option (Nat × Nat)
  | _, _, [] => none
  | k, before, p :: rest =>
    if !(decide (-5000 ≤ p.temp) && decide (p.temp ≤ 6000)) then some (4, k)
    else if !inRange 40000 65000 p.density then some (5, k)
    else if !(before.all fun t => decide (t < p.temp)) then some (6, k)
    else breakpointFault (k + 1) (some p.temp) rest

/-- What the checks of R85 make of a GRADE_LOAD body of the right length: the failed item and the breakpoint's number,
or the grade number and the record. -/
def readGradeLoad (b : List Byte) : Except (Nat × Nat) (GradeNo × Grade) :=
  let points := readBreakpoints b (num1 b 17) 18
  match gradeOf (num1 b 0) with
  | none => .error (1, 0)
  | some g =>
    match readChars 8 b 1 with
    | none => .error (2, 0)
    | some label =>
      if !inRange 2 16 (num1 b 17) then .error (3, 0)
      else match breakpointFault 1 none points with
        | some fault => .error fault
        | none =>
          match readRoundingMode (num1 b 10) with
          | none => .error (7, 0)
          | some rounding =>
            let r : Grade :=
              { label := label, breakpoints := points, rounding := rounding, heelFlow := num2 b 11,
                stripEnd := num2 b 13, maxPressure := num2 b 15 }
            if !inRange 100 20000 r.heelFlow then .error (8, 0)
            else if !inRange 150 800 r.stripEnd then .error (9, 0)
            else if !inRange 700 2600 r.maxPressure then .error (10, 0)
            else if !(r.stripEnd < r.maxPressure) then .error (11, 0)
            else .ok (g, r)

/-- The request a whole frame makes, by its code (R190). -/
def requestOf (code tag : Byte) (body : List Byte) : Instr :=
  match code.toNat with
  | 1 => .carAdd tag body
  | 2 => .carWithdraw tag body
  | 3 => .carMove tag body
  | 4 => .carList tag body
  | 5 => .spotAssign tag body
  | 6 => .spotRelease tag body
  | 7 => .spotStart tag body
  | 8 => .spotHold tag body
  | 9 => .spotResume tag body
  | 10 => .spotStop tag body
  | 11 => .spotReset tag body
  | 12 => .spotOverride tag body
  | 13 => .spotConfig tag body
  | 14 => .spotsRead tag body
  | 15 => .gradeLoad tag body
  | 16 => .gradeRead tag body
  | 17 => .sidingConfig tag body
  | 18 => .sidingMode tag body
  | 19 => .proofRequest tag body
  | 20 => .proofRead tag body
  | 21 => .ticketRead tag body
  | 22 => .ticketRelease tag body
  | 23 => .status tag body
  | 24 => .restart tag body
  | _ => .unsupportedRequest code tag body

end Sys2Proof.Machine
end

