-- ==== Sys2Proof/Machine/Metering.lean ====
section
/-! DEFINITION. The metering arithmetic of chapters 3 and 4: the four stages, the density lookup, the window checks, the
closing read, and net mass in kilograms. -/

namespace Sys2Proof.Machine

/-- The greatest value of an unsigned 32-bit total or counter (R48, R63). -/
def max32 : Nat := 4294967295

/-- A counter that rises by one and stays at 4,294,967,295 (R48). -/
def count32 (n : Nat) : Nat := min (n + 1) max32

/-- An accumulator after an addition (R63): it saturates. -/
def addSat (acc x : Nat) : Nat := min (acc + x) max32

/-- Whether the addition saturates, so that ACCUM_SAT joins (R63). -/
def addOverflows (acc x : Nat) : Bool := max32 < acc + x

/-! ## Inputs of a reply (R56, R57) -/

/-- A valid temperature brought into range, with its clamp mark (R56). -/
def clampT (t : Int) : HeldInt :=
  if t < -5000 then ⟨-5000, true⟩ else if 6000 < t then ⟨6000, true⟩ else ⟨t, false⟩

/-- A valid differential pressure brought into range, with its clamp mark (R56). -/
def clampDp (dp : Nat) : HeldNat := if 25000 < dp then ⟨25000, true⟩ else ⟨dp, false⟩

/-- A valid vapour pressure brought into range, with its clamp mark (R56). -/
def clampPv (pv : Nat) : HeldNat :=
  if pv < 100 then ⟨100, true⟩ else if 2500 < pv then ⟨2500, true⟩ else ⟨pv, false⟩

/-- A SAMPLE_READ reply renews the held values and reports the overrun flag (R57, R58, R160). -/
def Meter.renew (m : Meter) (r : Sample) : Meter :=
  { m with
    heldT := (r.temp.map clampT).getD m.heldT
    heldDp := (r.dp.map clampDp).getD m.heldDp
    heldPv := (r.pv.map clampPv).getD m.heldPv
    heldCarPressure := r.carPressure.getD m.heldCarPressure
    flags := { m.flags with pulseOverrun := m.flags.pulseOverrun || r.overrun } }

/-- Whether a reply leaves the arithmetic with a held value among T, dp and Pv (R65). -/
def Sample.usesHeld (r : Sample) : Bool := r.temp.isNone || r.dp.isNone || r.pv.isNone

/-! ## Density (R79) -/

/-- The density in the segment from `lo` to `hi`: the quotient is truncated toward zero (R79, step 3). -/
def interpolate (lo hi : Breakpoint) (t : Int) : Nat :=
  ((lo.density : Int) +
    Int.tdiv (((hi.density : Int) - (lo.density : Int)) * (t - lo.temp)) (hi.temp - lo.temp)).toNat

/-- The density at or above the breakpoint `lo`: in the first segment whose upper end lies above `t`, else the last
breakpoint's (R79, steps 2 and 3). -/
def densityFrom (lo : Breakpoint) (t : Int) : List Breakpoint → Nat
  | [] => lo.density
  | hi :: rest => if t < hi.temp then interpolate lo hi t else densityFrom hi t rest

/-- The density for a temperature in a breakpoint list (R79). -/
def density (points : List Breakpoint) (t : Int) : Nat :=
  match points with
  | [] => Config.densityNotLoaded t
  | first :: rest => if t ≤ first.temp then first.density else densityFrom first t rest

/-- The density lookup of stage 2 for the car's grade (R60); a free value where the grade is not loaded (log 14). -/
def gradeDensity (g : Option Grade) (t : Int) : Nat :=
  match g with
  | some r => density r.breakpoints t
  | none => Config.densityNotLoaded t

/-- The heel flow of the car's grade (R83); a free value where the grade is not loaded (log 14). -/
def gradeHeelFlow (g : Option Grade) : Nat := (g.map Grade.heelFlow).getD Config.heelFlowNotLoaded

/-- The strip-end pressure of the car's grade (R84); a free value where the grade is not loaded (log 14). -/
def gradeStripEnd (g : Option Grade) : Nat := (g.map Grade.stripEnd).getD Config.stripEndNotLoaded

/-- The maximum car pressure of the car's grade (R84); a free value where the grade is not loaded (log 14). -/
def gradeMaxPressure (g : Option Grade) : Nat := (g.map Grade.maxPressure).getD Config.maxPressureNotLoaded

/-- The rounding mode of the car's grade (R82); a free value where the grade is not loaded (log 14). -/
def gradeRounding (g : Option Grade) : RoundingMode :=
  match g with
  | some r => r.rounding
  | none => (readRoundingMode (Config.roundingNotLoaded % 4)).getD .nearestEven

/-! ## Square root (R62, step 3) -/

/-- The greatest `r + x` with `x` below `2 ^ bits` whose square does not exceed `n`, found bit by bit. -/
def isqrtBits : Nat → Nat → Nat → Nat
  | 0, r, _ => r
  | bits + 1, r, n =>
    if (r + 2 ^ bits) * (r + 2 ^ bits) ≤ n then isqrtBits bits (r + 2 ^ bits) n else isqrtBits bits r n

/-- The greatest integer whose square does not exceed the argument, for arguments below 2 ^ 32 (00_scope 4.3). -/
def isqrt (n : Nat) : Nat := isqrtBits 16 0 n

/-! ## The stages (R59 to R62) -/

/-- Stages 1 to 3 with the values now held: volume, density, liquid mass (R59, R60, R61), each added by R63; and
TEMP_CLAMPED where stage 2 uses a clamped temperature (R56). -/
def Meter.bookLiquid (m : Meter) (c : SpotConfig) (g : Option Grade) (p : Nat) : Meter :=
  let v := (p * 1000000 + m.rv) / c.k
  let grams := (v * gradeDensity g m.heldT.value + m.rm) / 100000
  { m with
    volume := addSat m.volume v
    rv := (p * 1000000 + m.rv) % c.k
    liquid := addSat m.liquid grams
    rm := (v * gradeDensity g m.heldT.value + m.rm) % 100000
    flags := { m.flags with
      tempClamped := m.flags.tempClamped || m.heldT.clamped
      accumSat := m.flags.accumSat || addOverflows m.volume v || addOverflows m.liquid grams } }

/-- The volume stage 1 gives for a pulse count (R59). -/
def Meter.windowVolume (m : Meter) (c : SpotConfig) (p : Nat) : Nat := (p * 1000000 + m.rv) / c.k

/-- s × Co × W of stage 4 with the values now held: a dp below the cutoff is taken as 0 (R62, steps 1 to 4). -/
def Meter.vapourNum (m : Meter) (c : SpotConfig) (period : Nat) : Nat :=
  let dp := if m.heldDp.value < c.dpCutoff then 0 else m.heldDp.value
  isqrt (dp * m.heldPv.value) * c.co * period

/-- Stage 4: vapour mass, booked in the accumulator of the window's phase with that phase's residual (R62, R63, R55);
and DP_CLAMPED and PV_CLAMPED where it uses a clamped value (R56). -/
def Meter.bookVapour (m : Meter) (c : SpotConfig) (phase : Phase) (period : Nat) : Meter :=
  let num := m.vapourNum c period
  let flags := { m.flags with
    dpClamped := m.flags.dpClamped || m.heldDp.clamped
    pvClamped := m.flags.pvClamped || m.heldPv.clamped }
  match phase with
  | .transfer =>
    { m with
      vapourReturned := addSat m.vapourReturned ((num + m.rr) / 16000000)
      rr := (num + m.rr) % 16000000
      flags := { flags with
        accumSat := flags.accumSat || addOverflows m.vapourReturned ((num + m.rr) / 16000000) } }
  | .strip =>
    { m with
      vapourRecovered := addSat m.vapourRecovered ((num + m.rc) / 16000000)
      rc := (num + m.rc) % 16000000
      flags := { flags with
        accumSat := flags.accumSat || addOverflows m.vapourRecovered ((num + m.rc) / 16000000) } }

/-- The running net: liquid − vapour_returned + vapour_recovered, signed (R64). -/
def Meter.runningNet (m : Meter) : Int :=
  (m.liquid : Int) - (m.vapourReturned : Int) + (m.vapourRecovered : Int)

/-! ## Windows (R53, R65 to R69) -/

/-- The outcomes a window can report (R14). -/
inductive WindowOutcome
  | none
  | target
  | empty
  | stripEnd
  deriving DecidableEq, Repr

/-- The report of a computed window to the sequencer (R69). -/
structure WindowReport where
  phase : Phase
  outcome : WindowOutcome
  sensorFault : Bool
  deriving DecidableEq, Repr

/-- Step 4 of R53: estimated_windows, ESTIMATED and held_run (R65). -/
def Meter.markEstimated (m : Meter) (estimated : Bool) : Meter :=
  if estimated then
    { m with
      estimatedWindows := count32 m.estimatedWindows
      heldRun := min (m.heldRun + 1) 5
      flags := { m.flags with estimated := true } }
  else { m with heldRun := 0 }

/-- The heel countdown after a TRANSFER-phase window that is not estimated: a low window lowers it, any other loads it
(R67). -/
def heelAfter (low : Bool) (countdown heelWindows : Nat) : Nat := if low then countdown - 1 else heelWindows

/-- A window is low when its mean flow falls below the heel flow (R67). -/
def windowLow (v heelFlow period : Nat) : Bool := v * 1000 < heelFlow * period

/-- The target is met when the car has a target_mass and the running net has reached it (R66). -/
def targetMet (target : Option Nat) (net : Int) : Bool :=
  match target with
  | some kg => (kg : Int) * 1000 ≤ net
  | none => false

/-- The checks of step 5 of R53 on the record after the bookings: target, then heel, for TRANSFER; strip end for
STRIP (R66, R67, R68). `v` is the window's volume, `fresh` the car pressure the window's reply reported valid. -/
def Meter.checkWindow (m : Meter) (c : SpotConfig) (g : Option Grade) (target : Option Nat) (w : WindowRead)
    (v : Nat) (estimated : Bool) (fresh : Option Nat) : Meter × WindowOutcome :=
  match w.phase with
  | .transfer =>
    if targetMet target m.runningNet then (m, .target)
    else if estimated then (m, .none)
    else
      let low := windowLow v (gradeHeelFlow g) w.period
      let countdown := heelAfter low m.heelCountdown c.heelWindows
      ({ m with heelCountdown := countdown }, if low && countdown == 0 then .empty else .none)
  | .strip =>
    match fresh with
    | some p => (m, if p ≤ gradeStripEnd g then .stripEnd else .none)
    | none => (m, .none)

/-- A window computed: stages 1 to 4 with the values now held, the estimate, the checks and the report (R53, R52). -/
def Meter.computeWindow (m : Meter) (c : SpotConfig) (g : Option Grade) (target : Option Nat) (w : WindowRead)
    (p : Nat) (estimated : Bool) (fresh : Option Nat) : Meter × WindowReport :=
  let booked := ((m.bookLiquid c g p).bookVapour c w.phase w.period).markEstimated estimated
  let checked := booked.checkWindow c g target w (m.windowVolume c p) estimated fresh
  (checked.1, { phase := w.phase, outcome := checked.2, sensorFault := checked.1.heldRun == 5 })

/-! ## Net mass in kilograms (R75) -/

/-- The magnitude of the rounded figure, from quotient and remainder of the magnitude of N by 1000 (R75's table). -/
def roundMagnitude (mode : RoundingMode) (negative : Bool) (q r : Nat) : Nat :=
  match mode with
  | .nearestEven => if r < 500 then q else if 500 < r then q + 1 else if q % 2 = 0 then q else q + 1
  | .towardZero => q
  | .up => if negative then q else if r = 0 then q else q + 1
  | .down => if negative then (if r = 0 then q else q + 1) else q

/-- Net grams to net kilograms by a rounding mode (R75). -/
def roundNet (mode : RoundingMode) (n : Int) : Int :=
  let m := roundMagnitude mode (decide (n < 0)) (n.natAbs / 1000) (n.natAbs % 1000)
  if n < 0 then -(m : Int) else (m : Int)

end Sys2Proof.Machine
end

