-- ==== Sys2Proof/Machine/Layouts.lean ====
section
/-! DEFINITION. What the SU-6 sends on the supervisory line: the codes of R202, the sets of R191, the record layouts of
R199 to R201, and the results of R192, R193 and R203. -/

namespace Sys2Proof.Machine

/-- A number as one byte. -/
def byte1 (n : Nat) : Byte := BitVec.ofNat 8 n

/-! ## Codes (R188, R202) -/

/-- Status code (R188). -/
def Status.code : Status → Nat
  | .ok => 0
  | .busy => 1
  | .range => 2
  | .notPermitted => 3
  | .full => 4
  | .empty => 5
  | .unknown => 6
  | .duplicate => 7
  | .unsupported => 8
  | .length => 9

/-- Spot state code (R202). -/
def SpotState.code : SpotState → Nat
  | .vacant => 0
  | .assigned => 1
  | .connected => 2
  | .ready => 3
  | .startWait => 4
  | .transfer => 5
  | .stripWait => 6
  | .strip => 7
  | .held => 8
  | .purge => 9
  | .ticketWait => 10
  | .complete => 11
  | .tripped => 12

/-- end_reason code, 0 when absent (R200, R202). -/
def endReasonCode : Option EndReason → Nat
  | none => 0
  | some .empty => 1
  | some .target => 2
  | some .timeLimit => 3
  | some .stopped => 4
  | some .interrupted => 5

/-- resume_phase code, 0 when absent. -/
def resumePhaseCode : Option ResumePhase → Nat
  | none => 0
  | some .liquid => 1
  | some .strip => 2

/-- hold_reason code, 0 when absent. -/
def holdReasonCode : Option HoldReason → Nat
  | none => 0
  | some .operator => 1
  | some .sidingShut => 2
  | some .compressor => 3

/-- Station status code. -/
def StationStatus.code : StationStatus → Nat
  | .absent => 0
  | .unknown => 1
  | .online => 2
  | .localOp => 3
  | .lost => 4

/-- Siding mode code. -/
def SidingMode.code : SidingMode → Nat
  | .run => 0
  | .quiet => 1
  | .shut => 2

/-- Compressor mode code. -/
def CompressorMode.code : CompressorMode → Nat
  | .idle => 0
  | .push => 1
  | .pull => 2
  | .changeover => 3

/-- Reversing position code, and the kind of a queue entry (R193). -/
def Duty.code : Duty → Nat
  | .push => 0
  | .pull => 1

/-- rounding_mode code. -/
def RoundingMode.code : RoundingMode → Nat
  | .nearestEven => 0
  | .towardZero => 1
  | .up => 2
  | .down => 3

/-- Proof state code. -/
def ProofState.code : ProofState → Nat
  | .current => 0
  | .due => 1
  | .failed => 2

/-- last_result code. -/
def strokeResultCode : Option StrokeResult → Nat
  | none => 0
  | some .pass => 1
  | some .slow => 2
  | some .fail => 3
  | some .aborted => 4

/-- fault_source code. -/
def faultSourceCode : Option FaultSource → Nat
  | none => 0
  | some .stroke => 1
  | some .travel => 2

/-- Stroke origin code. -/
def StrokeOrigin.code : StrokeOrigin → Nat
  | .cursor => 0
  | .request => 1

/-- Command state code of the snapshot (R200). -/
def ValveCommand.code : ValveCommand → Nat
  | .closed => 0
  | .opening => 1
  | .opened => 2
  | .closing => 3

/-- Reported position code of the snapshot (R200). -/
def ValvePosition.code : ValvePosition → Nat
  | .closed => 0
  | .opened => 1
  | .travel => 2

/-- Line rate code (R193). -/
def lineRateCode : LineRate → Nat
  | .baud9600 => 0
  | .baud19200 => 1
  | .baud38400 => 2
  | .baud115200 => 3

/-! ## Sets (R191) -/

/-- A truth value as a bit. -/
def bitOf (b : Bool) : Nat := if b then 1 else 0

/-- Bits, least significant first, as a number. -/
def ofBits : List Bool → Nat
  | [] => 0
  | b :: rest => bitOf b + 2 * ofBits rest

/-- A set of spots: bit n for spot n. -/
def spotSetByte (set : List SpotNo) : Byte := byte1 (ofBits (allSpots.map set.contains))

/-- A set of permissives: bit p for position p, two bytes. -/
def permissiveSetBytes (set : List Permissive) : List Byte := leBytes 2 (ofBits (Permissive.all.map set.contains))

/-- A set of trip causes: bit k − 1 for cause number k, two bytes. -/
def causeSetBytes (set : List TripCause) : List Byte := leBytes 2 (ofBits (TripCause.all.map set.contains))

/-- The bypass set as a set of permissives. -/
def Bypass.bytes (b : Bypass) : List Byte := permissiveSetBytes (Permissive.all.filter b.has)

/-- The flags of a ticket: bits 0 to 10 in the order of R173's table (R201). -/
def TicketFlags.bytes (f : TicketFlags) : List Byte :=
  leBytes 2 (ofBits
    [f.condition.tempClamped, f.condition.dpClamped, f.condition.pvClamped, f.condition.estimated,
     f.condition.pulseOverrun, f.condition.pulsesUnread, f.condition.accumSat,
     f.sequence.bypassUsed, f.sequence.stripped, f.sequence.stripTimeout, f.negativeNet])

/-! ## Records -/

/-- A car record of 24 bytes (R199). -/
def CarRecord.bytes (c : CarRecord) : List Byte :=
  charField 12 c.carId ++
  [byte1 c.grade.val,
   byte1 (ofBits [c.declaredMass.isSome, c.targetMass.isSome, c.spotSet.isSome])] ++
  leBytes 4 (c.declaredMass.getD 0) ++ leBytes 4 (c.targetMass.getD 0) ++
  [spotSetByte (c.spotSet.getD [])]

/-- A spot snapshot record of 46 bytes (R200, R33). -/
def State.snapshot (s : State) (n : SpotNo) : List Byte :=
  let r := s.spot n
  let m := s.meter n
  let st := s.station n
  [byte1 n.val,
   byte1 (ofBits [r.config.present, r.car.isSome, r.stripRequested, st.positions.isSome]),
   byte1 r.state.code] ++
  charField 12 ((r.car.map CarRecord.carId).getD []) ++
  [byte1 ((r.car.map fun c => c.grade.val).getD 255),
   byte1 (endReasonCode r.endReason),
   byte1 (resumePhaseCode r.resumePhase),
   byte1 (holdReasonCode r.holdReason),
   byte1 ((r.trip.map fun t => t.firstOut.number).getD 0)] ++
  causeSetBytes ((r.trip.map TripRecord.causes).getD []) ++
  permissiveSetBytes (s.permissives n) ++
  r.bypass.bytes ++
  [byte1 (r.valveL.code + 4 * r.valveV.code),
   byte1 ((st.positions.map fun p => p.l.code + 4 * p.v.code).getD 0),
   byte1 st.status.code] ++
  leBytes 4 m.windowsCounted ++ leBytes 4 m.estimatedWindows ++ leBytesInt 8 m.runningNet

/-- A ticket record of 61 bytes (R201). -/
def Ticket.bytes (t : Ticket) : List Byte :=
  leBytes 4 t.number ++ charField 12 t.carId ++ [byte1 t.grade.val, byte1 t.spot.val] ++
  leBytes 4 t.volume ++ leBytes 4 t.liquid ++ leBytes 4 t.vapourReturned ++ leBytes 4 t.vapourRecovered ++
  leBytesInt 4 t.netKg ++ leBytes 4 t.windows ++ leBytes 4 t.estimatedWindows ++ leBytes 2 t.transferTime ++
  [byte1 (endReasonCode (some t.endReason))] ++ t.flags.bytes ++
  match t.declared with
  | some d => [1] ++ leBytes 4 d.declaredKg ++ leBytesInt 4 d.differenceKg
  | none => [0] ++ leBytes 8 0

/-- The fields of the GRADE_LOAD body for a loaded grade (R190, R203). -/
def Grade.bytes (g : GradeNo) (r : Grade) : List Byte :=
  [byte1 g.val] ++ charField 8 r.label ++ [byte1 r.rounding.code] ++ leBytes 2 r.heelFlow ++
  leBytes 2 r.stripEnd ++ leBytes 2 r.maxPressure ++ [byte1 r.breakpoints.length] ++
  r.breakpoints.flatMap fun p => leBytesInt 2 p.temp ++ leBytes 2 p.density

/-- The siding configuration, as in the SIDING_CONFIG body (R193). -/
def SidingConfig.bytes (c : SidingConfig) : List Byte :=
  leBytes 2 c.window ++ [byte1 c.startSpacing, byte1 c.changeoverTime] ++ leBytes 2 c.proofInterval ++
  [byte1 c.leadTime] ++ leBytes 2 c.proofStep

/-- A valve proof record of 8 bytes (R203). -/
def ProofRecord.bytes (p : ProofRecord) : List Byte :=
  [byte1 p.state.code] ++ leBytes 2 p.elapsed ++
  [byte1 (strokeResultCode p.lastResult), byte1 (bitOf p.lastTravel.isSome)] ++
  leBytes 2 (p.lastTravel.getD 0) ++ [byte1 (faultSourceCode p.faultSource)]

/-- Remaining whole seconds of a timer, 0xFFFF when stopped (R193). -/
def timerField (t : Timer) : List Byte := leBytes 2 (t.wholeSeconds.getD 65535)

/-- The six queue entries of STATUS: head first, unused entries 0xFF, 0xFF (R193). -/
def queueField (q : List QueueEntry) : List Byte :=
  ((q.take 6).flatMap fun e => [byte1 e.spot.val, byte1 e.kind.code]) ++
    List.replicate (2 * (6 - q.length)) 0xFF#8

/-- The result of STATUS, 54 bytes (R193). -/
def State.statusResult (s : State) : List Byte :=
  [byte1 s.siding.mode.code,
   byte1 (ofBits [s.siding.stopActive, s.siding.faultActive, s.siding.runInput, s.link.attentionLine]),
   byte1 (ofBits [s.comp.runRequest, s.comp.reversing == .pull])] ++
  s.siding.config.bytes ++
  [byte1 (lineRateCode s.line.rate), byte1 s.comp.mode.code, byte1 s.comp.position.code,
   byte1 ((s.comp.target.map Duty.code).getD 255),
   spotSetByte s.comp.pushHolders,
   byte1 ((s.comp.pullHolder.map Fin.val).getD 255)] ++
  timerField s.comp.spacing ++ timerField s.comp.changeover ++
  leBytes 2 (s.comp.pushGrantAge.getD 65535) ++
  [byte1 s.comp.queue.length] ++ queueField s.comp.queue ++
  leBytes 4 s.tickets.serial ++ [byte1 s.tickets.wait.length] ++
  (allSpots.map fun n => byte1 (s.spot n).state.code) ++
  allSpots.map fun n => byte1 (s.station n).status.code

/-- The result of PROOF_READ, 108 bytes (R203, R143). -/
def State.proofResult (s : State) : List Byte :=
  (allValves.flatMap fun v => (s.proofRecord v).bytes) ++
  [byte1 s.proof.cursor.val] ++
  leBytes 2 (s.proof.stepTimer.wholeSeconds.getD 0) ++ leBytes 2 (s.proof.hourTimer.wholeSeconds.getD 0) ++
  match s.proof.stroke with
  | some k =>
    [1, byte1 k.valve.val, byte1 k.origin.code] ++ leBytes 2 k.limit ++ leBytes 2 k.timer.remaining
  | none => leBytes 7 0

/-- The result of TICKET_READ (R201, R177). -/
def ticketReadResult (t : Ticket) (u : TicketUnit) : List Byte :=
  t.bytes ++ [byte1 u.queue.length, byte1 u.wait.length] ++
    u.wait.flatMap fun w => [byte1 w.spot.val] ++ leBytes 4 w.ticket.number

/-! ## Replies (R187, R189) -/

/-- The five bytes of the summary (R189). -/
def Summary.bytes (s : Summary) : List Byte :=
  [byte1 s.tickets, spotSetByte s.tripped, byte1 s.notCurrent, byte1 s.sidingMode.code, byte1 s.compressorMode.code]

/-- The bytes of a reply frame on the supervisory line (R183, R187). -/
def Reply.frame (r : Reply) : List Byte :=
  lineFrame r.code r.tag (byte1 r.status.code :: (r.summary.bytes ++ r.result))

end Sys2Proof.Machine
end

