-- ==== Sys2Proof/Machine/Ops.lean ====
section
/-! DEFINITION. The named operations of the blocks: the pending list and its requests (chapter 8), valve commands and
transitions of a spot (chapters 1 and 6), the compressor's grants (chapter 5), strokes (chapter 7), tickets
(chapter 9), window and closing reads (chapter 3), replies (chapter 10). -/

namespace Sys2Proof.Machine

/-! ## The pending list (R148, R149) -/

/-- The four priority classes of R146. -/
inductive LinkClass
  | safety
  | attention
  | sample
  | action
  deriving DecidableEq, Repr

/-- The class of a kind (R146). -/
def linkClass : LinkKind → LinkClass
  | .initStation | .close => .safety
  | .attentionPoll => .attention
  | .sampleRead | .countAck => .sample
  | .valveOpen | .stroke | .clear => .action

/-- Whether an entry is of a pair of station and kind (R148). -/
def LinkEntry.isPair (e : LinkEntry) (station : Option SpotNo) (kind : LinkKind) : Bool :=
  e.station == station && e.txn.kind == kind

/-- Whether an entry of a pair is pending. -/
def Link.hasPending (l : Link) (station : Option SpotNo) (kind : LinkKind) : Bool :=
  l.entries.any fun e => e.isPair station kind

/-- Whether a transaction of a pair is in flight. -/
def Link.inFlightIs (l : Link) (station : Option SpotNo) (kind : LinkKind) : Bool :=
  l.inFlight.any fun f => f.entry.isPair station kind

/-- The union of two sets of markings (R149). -/
def Markings.union (a b : Markings) : Markings :=
  ⟨a.window.or b.window, a.closing || b.closing, a.attention || b.attention⟩

/-- Whether a set of markings is empty. -/
def Markings.isEmpty (m : Markings) : Bool := m.window.isNone && !m.closing && !m.attention

/-- What a pending transaction becomes when another of its pair merges into it: markings and valve sets are joined, a
COUNT_ACK takes the newer data (log 24), any other absorbs it (R149). -/
def Txn.merge (pending added : Txn) : Txn :=
  match pending, added with
  | .sampleRead a, .sampleRead b => .sampleRead (a.union b)
  | .valveOpen a, .valveOpen b => .valveOpen (a.union b)
  | .countAck _ _, .countAck seq amount => .countAck seq amount
  | t, _ => t

/-- The pending entry after an entry of its pair merges into it: it keeps its place, and takes the hold-off of a
returning entry (R149, R151). -/
def LinkEntry.absorb (pending added : LinkEntry) : LinkEntry :=
  { pending with
    txn := pending.txn.merge added.txn
    holdOff := if added.holdOff.isRunning then added.holdOff else pending.holdOff }

/-- An entry joins the pending list: merged into the entry of its pair, or at the tail (R149, R151). -/
def Link.join (l : Link) (e : LinkEntry) : Link :=
  if l.hasPending e.station e.txn.kind then
    { l with entries := l.entries.map fun p => if p.isPair e.station e.txn.kind then p.absorb e else p }
  else { l with entries := l.entries ++ [e] }

/-- Withdraw the pending entry of a pair. -/
def Link.withdraw (l : Link) (station : SpotNo) (kind : LinkKind) : Link :=
  { l with entries := l.entries.filter fun e => !e.isPair (some station) kind }

/-- Mark the transaction in flight of a pair withdrawn (R149, R137); a dropped one stays dropped. -/
def Link.markWithdrawn (l : Link) (station : SpotNo) (kind : LinkKind) : Link :=
  { l with inFlight := l.inFlight.map fun f =>
      if f.entry.isPair (some station) kind && f.mark == .live then { f with mark := .withdrawn } else f }

/-- A new entry of a station, with no hold-off. -/
def newEntry (n : SpotNo) (t : Txn) : LinkEntry := ⟨some n, t, .stopped⟩

/-- Whether a station takes requests in the ordinary way: neither ABSENT nor LOST (R149, R154). -/
def StationStatus.takesRequests : StationStatus → Bool
  | .unknown | .online | .localOp => true
  | .absent | .lost => false

namespace State

/-- An entry joins the pending list. -/
def join (s : State) (e : LinkEntry) : State := s.setLink (s.link.join e)

/-- A request of the ordinary kind reaches the link scheduler: it joins, or is discarded for a station that is ABSENT
or LOST (R149, R154). -/
def request (s : State) (n : SpotNo) (t : Txn) : State :=
  if (s.station n).status.takesRequests then s.join (newEntry n t) else s

/-- The link scheduler queues an INITIALIZE; nothing is asked of an ABSENT station (R149, R153). -/
def queueInit (s : State) (n : SpotNo) : State :=
  if (s.station n).status == .absent then s else s.join (newEntry n (.initStation false))

/-- A request for a CLOSE: it joins the SAFETY class and withdraws the station's VALVE_OPEN, pending or in flight
(R149). A LOST station absorbs it (R154). -/
def requestClose (s : State) (n : SpotNo) : State :=
  if (s.station n).status.takesRequests then
    s.setLink (((s.link.join (newEntry n .close)).withdraw n .valveOpen).markWithdrawn n .valveOpen)
  else s

end State

/-! ## The attention poll (R162) -/

/-- Whether a transaction holds back a poll: a SAMPLE_READ marked ATTENTION, or a CLEAR (R162). -/
def Txn.holdsPoll : Txn → Bool
  | .sampleRead m => m.attention
  | .clear => true
  | _ => false

/-- The conditions of R162. -/
def Link.pollWanted (l : Link) : Bool :=
  l.attentionLine
    && !l.hasPending none .attentionPoll && !l.inFlightIs none .attentionPoll
    && !l.entries.any (fun e => e.txn.holdsPoll) && !l.inFlight.any (fun f => f.entry.txn.holdsPoll)
    && !l.pollHoldOff.isRunning

/-- The link scheduler judges R162, and queues an ATTENTION_POLL where all its conditions hold. -/
def State.judgePoll (s : State) : State :=
  if s.link.pollWanted then s.join ⟨none, .attentionPoll, .stopped⟩ else s

/-- R162 is judged where `owed` says that an event of its list happened. -/
def State.judgePollIf (s : State) (owed : Bool) : State := if owed then s.judgePoll else s

/-! ## Selection and sending (R150) -/

/-- Whether an entry is passed over (R150). -/
def Link.passedOver (l : Link) (e : LinkEntry) : Bool :=
  e.holdOff.isRunning ||
  match e.station with
  | none => false
  | some n =>
    (e.txn.kind != .initStation
        && (l.hasPending (some n) .initStation || l.inFlightIs (some n) .initStation))
      || (e.txn.kind == .sampleRead && (l.stations[n.val]).ackOutstanding.isSome)
      || (e.txn.kind == .valveOpen
        && (l.hasPending (some n) .close || l.inFlightIs (some n) .close))

/-- The first entry of a class that is not passed over. -/
def Link.firstOf (l : Link) (c : LinkClass) : Option LinkEntry :=
  l.entries.find? fun e => linkClass e.txn.kind == c && !l.passedOver e

/-- The entry R150 selects: by class, and by place within the class. -/
def Link.select (l : Link) : Option LinkEntry :=
  (((l.firstOf .safety).or (l.firstOf .attention)).or (l.firstOf .sample)).or (l.firstOf .action)

/-- When the link is free, the selected entry leaves the list and is sent (R150). -/
def Link.send (l : Link) : Link :=
  match l.inFlight with
  | some _ => l
  | none =>
    match l.select with
    | some e => { l with entries := l.entries.erase e, inFlight := some ⟨e, .live⟩ }
    | none => l

/-! ## Valve commands (R27, R28, R29) -/

/-- A timer loaded with the spot's travel_limit. -/
def SpotRecord.travelLoad (r : SpotRecord) : Timer := .seconds r.config.travelLimit

/-- The valves of a set that are in a command state. -/
def SpotRecord.valvesIn (r : SpotRecord) (set : ValveSet) (p : ValveCommand → Bool) : ValveSet :=
  ⟨set.l && p r.valveL, set.v && p r.valveV⟩

/-- Put the valves of a set into OPENING and load their travel timers. -/
def SpotRecord.startOpening (r : SpotRecord) (set : ValveSet) : SpotRecord :=
  { r with
    valveL := if set.l then .opening else r.valveL
    valveV := if set.v then .opening else r.valveV
    travelL := if set.l then r.travelLoad else r.travelL
    travelV := if set.v then r.travelLoad else r.travelV }

/-- Valves become OPENING and a VALVE_OPEN naming them is asked for (R27); nothing for the empty set. -/
def State.driveOpen (s : State) (n : SpotNo) (set : ValveSet) : State :=
  if set.isEmpty then s else (s.onSpot n (·.startOpening set)).request n (.valveOpen set)

/-- A command to open the valves of a set: CLOSED ones become OPENING, CLOSING ones are deferred (R27). -/
def State.openValves (s : State) (n : SpotNo) (set : ValveSet) : State :=
  let r := s.spot n
  let deferred := r.openDeferred.union (r.valvesIn set (· == .closing))
  (s.setSpot n { r with openDeferred := deferred }).driveOpen n (r.valvesIn set (· == .closed))

/-- The valves that are OPENING or OPEN. -/
def SpotRecord.openish (r : SpotRecord) : ValveSet := r.valvesIn .both fun c => c == .opening || c == .opened

/-- OPENING and OPEN valves become CLOSING with their travel timers loaded; open_deferred is emptied (R28). -/
def SpotRecord.startClosing (r : SpotRecord) : SpotRecord :=
  { r with
    valveL := if r.openish.l then .closing else r.valveL
    valveV := if r.openish.v then .closing else r.valveV
    travelL := if r.openish.l then r.travelLoad else r.travelL
    travelV := if r.openish.v then r.travelLoad else r.travelV
    openDeferred := .none }

/-- A command to close both valves; a CLOSE is asked for if any valve became CLOSING (R28). -/
def State.closeValves (s : State) (n : SpotNo) : State :=
  let r := s.spot n
  let s' := s.setSpot n r.startClosing
  if r.openish.isEmpty then s' else s'.requestClose n

/-- CLOSING valves become CLOSED and their travel timers stop (R29). -/
def SpotRecord.finishClosing (r : SpotRecord) : SpotRecord :=
  { r with
    valveL := if r.valveL == .closing then .closed else r.valveL
    valveV := if r.valveV == .closing then .closed else r.valveV
    travelL := if r.valveL == .closing then .stopped else r.travelL
    travelV := if r.valveV == .closing then .stopped else r.travelV }

/-- A close completes: CLOSING valves become CLOSED, then any deferred open is given (R29, R27). -/
def State.closeDone (s : State) (n : SpotNo) : State :=
  let deferred := (s.spot n).openDeferred
  (s.onSpot n fun r => { r.finishClosing with openDeferred := .none }).driveOpen n deferred

/-- A VALVE_OPEN is answered DONE: each valve named that is OPENING becomes OPEN (R29). -/
def SpotRecord.openDone (r : SpotRecord) (set : ValveSet) : SpotRecord :=
  let named := r.valvesIn set (· == .opening)
  { r with
    valveL := if named.l then .opened else r.valveL
    valveV := if named.v then .opened else r.valveV
    travelL := if named.l then .stopped else r.travelL
    travelV := if named.v then .stopped else r.travelV }

/-- An INITIALIZE is answered DONE: CLOSING valves become CLOSED and deferred opens are given; in TRANSFER and STRIP the
valves that were OPEN or OPENING are driven open again (R29). -/
def State.initDone (s : State) (n : SpotNo) : State :=
  let r := s.spot n
  let again := if r.state.moving then r.openish else .none
  (s.onSpot n fun r => { r.finishClosing with openDeferred := .none }).driveOpen n (r.openDeferred.union again)

/-! ## Shares and queue entries (R90, R91, R99, R100) -/

/-- Whether a spot holds a share. -/
def Compressor.holds (c : Compressor) (n : SpotNo) : Bool := c.pushHolders.contains n || c.pullHolder == some n

/-- Whether a spot's entry is the head of the queue. -/
def Compressor.headIs (c : Compressor) (n : SpotNo) : Bool :=
  match c.queue with
  | e :: _ => e.spot == n
  | [] => false

/-- A spot gives up its share and its queue entry, whichever it has; with no holder left the mode becomes IDLE (R99,
R100). -/
def Compressor.drop (c : Compressor) (n : SpotNo) : Compressor :=
  let c' := { c with
    pushHolders := c.pushHolders.filter (· != n)
    pullHolder := if c.pullHolder == some n then none else c.pullHolder
    queue := c.queue.filter fun e => e.spot != n }
  if c.holds n && c'.pushHolders.isEmpty && c'.pullHolder.isNone then { c' with mode := .idle } else c'

/-- Whether giving up starts an examination: a share was released, or the head left the queue (R92). -/
def Compressor.dropExamines (c : Compressor) (n : SpotNo) : Bool := c.holds n || c.headIs n

/-! ## Entry to PURGE, apart from the compressor (R22, R70) -/

/-- The window and strip timers stop, and the transfer-limit timer pauses (R20, R22). -/
def SpotRecord.stopMoving (r : SpotRecord) : SpotRecord :=
  { r with window := .stopped, strip := .stopped, limitRunning := false }

/-- The fields of the spot record on entry to PURGE (R22): a reason named replaces end_reason. -/
def SpotRecord.toPurge (r : SpotRecord) (reason : Option EndReason) : SpotRecord :=
  { r.stopMoving with
    state := .purge
    endReason := reason.or r.endReason
    purge := .seconds r.config.purgeTime
    purgeExpired := false
    closingRead := .outstanding }

/-- The closing read is abandoned at the metering engine: closing_request none, PULSES_UNREAD (R72). -/
def Meter.abandonClosing (m : Meter) : Meter :=
  { m with closingRequest := false, flags := { m.flags with pulsesUnread := true } }

/-- A closing read is asked for (R70): none is asked for again while one is outstanding; a LOST station's is abandoned
at once (R154). -/
def State.requestClosing (s : State) (n : SpotNo) : State :=
  if (s.meter n).closingRequest then s
  else if (s.station n).status == .lost then
    (s.onMeter n Meter.abandonClosing).onSpot n fun r => { r with closingRead := .settled }
  else (s.onMeter n fun m => { m with closingRequest := true }).request n (.sampleRead ⟨none, true, false⟩)

/-- The last steps of an entry to PURGE: both valves commanded closed, the closing read asked for (R22). -/
def State.purgeRest (s : State) (n : SpotNo) : State := (s.closeValves n).requestClosing n

/-! ## Grants (R92 to R99) -/

/-- The record of a spot entering TRANSFER: the window timer loaded, the transfer-limit timer running (R12, R16). -/
def SpotRecord.toTransfer (r : SpotRecord) (window : Nat) : SpotRecord :=
  { r with state := .transfer, window := .running window, limitRunning := true }

/-- A spot holds a push share: its record in TRANSFER, the heel countdown loaded, both valves commanded open (R12,
R67). -/
def State.beginTransfer (s : State) (n : SpotNo) : State :=
  ((s.onSpot n (·.toTransfer s.siding.config.window)).onMeter n
    fun m => { m with heelCountdown := (s.spot n).config.heelWindows }).openValves n .both

/-- Entry to TRANSFER on a push share (R12, R16): with no TRANSFER time left that is taken at once as an expiry, and
the spot goes on to PURGE; the release it makes is examined by the examination that granted it (log 22). -/
def State.enterTransfer (s : State) (n : SpotNo) : State :=
  let s1 := s.beginTransfer n
  if (s.spot n).limitMs == 0 then
    ((s1.onSpot n (·.toPurge (some .timeLimit))).setComp (s1.comp.drop n)).purgeRest n
  else s1

/-- The record of a spot entering STRIP: the window and strip timers loaded (R17). -/
def SpotRecord.toStrip (r : SpotRecord) (window : Nat) : SpotRecord :=
  { r with state := .strip, window := .running window, strip := .seconds r.config.stripLimit }

/-- Entry to STRIP on a pull share (R17): V is commanded open. -/
def State.enterStrip (s : State) (n : SpotNo) : State :=
  (s.onSpot n (·.toStrip s.siding.config.window)).openValves n ⟨false, true⟩

/-- Whether the head entry is granted (R94, R95). -/
def Compressor.grantable (c : Compressor) (kind : Duty) : Bool :=
  match kind with
  | .push =>
    c.position == .push && (c.mode == .idle || c.mode == .push) && c.pushHolders.length < 4 && !c.spacing.isRunning
  | .pull => c.position == .pull && c.mode == .idle

/-- The compressor record after a grant of the head entry (R98, R99, R89): a start spacing of 0 leaves the spacing
timer stopped. -/
def Compressor.grant (c : Compressor) (e : QueueEntry) (rest : List QueueEntry) (spacing : Nat) : Compressor :=
  match e.kind with
  | .push =>
    { c with
      queue := rest
      pushHolders := allSpots.filter fun n => n == e.spot || c.pushHolders.contains n
      mode := .push
      pushGrantAge := some 0
      age := .seconds 1
      spacing := if spacing == 0 then .stopped else .seconds spacing }
  | .pull => { c with queue := rest, pullHolder := some e.spot, mode := .pull }

/-- A grant of the head entry, with the entry of its spot to TRANSFER or STRIP (R98). -/
def State.grant (s : State) (e : QueueEntry) (rest : List QueueEntry) : State :=
  let s' := s.setComp (s.comp.grant e rest s.siding.config.startSpacing)
  match e.kind with
  | .push => s'.enterTransfer e.spot
  | .pull => s'.enterStrip e.spot

/-- A changeover begins toward a position (R96). -/
def Compressor.beginChangeover (c : Compressor) (target : Duty) (time : Nat) : Compressor :=
  { c with mode := .changeover, target := some target, changeover := .seconds time }

/-- An examination of the queue head (R92): every grant makes a new head that is examined in the same way. The number
bounds the grants; an examination never needs more than one for each entry and one more look. -/
def State.examineUpTo : Nat → State → State
  | 0, s => s
  | bound + 1, s =>
    if s.frozen then s
    else match s.comp.queue with
      | [] => s
      | e :: rest =>
        if s.comp.grantable e.kind then State.examineUpTo bound (s.grant e rest)
        else if e.kind != s.comp.position && s.comp.mode == .idle then
          s.setComp (s.comp.beginChangeover e.kind s.siding.config.changeoverTime)
        else s

/-- The allocator examines the queue head (R92). -/
def State.examine (s : State) : State := State.examineUpTo (s.comp.queue.length + 1) s

/-- A changeover completes: position takes the value of target, and the mode becomes IDLE (R97). With no target, which no
run reaches, position stays (log 34). -/
def Compressor.completeChangeover (c : Compressor) : Compressor :=
  { c with mode := .idle, position := c.target.getD c.position, target := none, changeover := .stopped }

/-- The expiry of the changeover timer, taken: the changeover completes and the head is examined (R97). -/
def State.completeChangeover (s : State) : State := (s.setComp s.comp.completeChangeover).examine

/-- A spot gives up its share or queue entry, and the head is examined where R92 says so (R99, R100). -/
def State.giveUp (s : State) (n : SpotNo) : State :=
  let s' := s.setComp (s.comp.drop n)
  if s.comp.dropExamines n then s'.examine else s'

/-- A spot asks for a queue entry at the tail (R90), and the head is examined (R92). -/
def State.askShare (s : State) (n : SpotNo) (kind : Duty) : State :=
  (s.setComp { s.comp with queue := s.comp.queue ++ [⟨n, kind⟩] }).examine

/-! ## Transitions of a spot (chapters 1 and 6) -/

/-- Every entry to PURGE (R22). -/
def State.enterPurge (s : State) (n : SpotNo) (reason : Option EndReason) : State :=
  ((s.onSpot n (·.toPurge reason)).giveUp n).purgeRest n

/-- The record of a spot entering HELD: resume_phase is that of the state it leaves (R20). -/
def SpotRecord.toHeld (r : SpotRecord) (reason : HoldReason) : SpotRecord :=
  { r.stopMoving with
    state := .held
    resumePhase := if r.state == .startWait || r.state == .transfer then some .liquid else some .strip
    holdReason := some reason }

/-- Entry to HELD (R20). -/
def State.enterHeld (s : State) (n : SpotNo) (reason : HoldReason) : State :=
  ((s.onSpot n (·.toHeld reason)).giveUp n).closeValves n

/-- Entry to START_WAIT with a PUSH entry (R11, R21). -/
def State.enterStartWait (s : State) (n : SpotNo) : State :=
  (s.onSpot n fun r => { r with state := .startWait }).askShare n .push

/-- Entry to STRIP_WAIT from TRANSFER on EMPTY (R15): the push share is released, both valves commanded closed, then a
PULL entry asked for. -/
def State.emptyToStripWait (s : State) (n : SpotNo) : State :=
  (((s.onSpot n fun r =>
    { r.stopMoving with state := .stripWait, endReason := some .empty }).giveUp n).closeValves n).askShare n .pull

/-- Entry to STRIP_WAIT by SPOT_RESUME (R21). -/
def State.resumeStripWait (s : State) (n : SpotNo) : State :=
  (s.onSpot n fun r => { r with state := .stripWait }).askShare n .pull

/-- The record of a spot entering TRIPPED, with its trip record (R26). -/
def SpotRecord.toTripped (r : SpotRecord) (t : TripRecord) : SpotRecord :=
  { r.stopMoving with
    state := .tripped
    trip := some t
    settle := .stopped
    purge := .stopped
    resumePhase := none
    holdReason := none }

/-- Entry to TRIPPED (R26) on the causes an event brings, in number order: the first is the first-out cause, and the
cause set is theirs and every level cause then present (R113). -/
def State.trip (s : State) (n : SpotNo) (brought : List TripCause) : State :=
  match brought with
  | [] => s
  | first :: _ =>
    ((s.onSpot n (·.toTripped ⟨first, causeUnion brought (s.levelsPresent n)⟩)).giveUp n).closeValves n

/-- In TRIPPED, causes join the cause set (R115). -/
def SpotRecord.addCauses (r : SpotRecord) (brought : List TripCause) : SpotRecord :=
  { r with trip := r.trip.map fun t => { t with causes := causeUnion t.causes brought } }

/-- A spot takes an event that brings causes: a trip-armed spot trips, a TRIPPED one adds them (R113, R115). -/
def State.takeCauses (s : State) (n : SpotNo) (brought : List TripCause) : State :=
  if (s.spot n).state.armed then s.trip n brought
  else if (s.spot n).state == .tripped then s.onSpot n (·.addCauses brought)
  else s

/-- Entry to CONNECTED: the settle timer is loaded (R6). -/
def SpotRecord.toConnected (r : SpotRecord) : SpotRecord :=
  { r with state := .connected, settle := .seconds r.config.settleTime }

/-- Entry to CONNECTED from ASSIGNED or VACANT, where every level cause present trips the spot at once (R109). -/
def State.connect (s : State) (n : SpotNo) : State :=
  let s' := s.onSpot n SpotRecord.toConnected
  s'.takeCauses n (s'.levelsPresent n)

/-- Entry to VACANT (R25): valve command states, travel timers and the rest of the record stay. -/
def SpotRecord.toVacant (r : SpotRecord) : SpotRecord :=
  { r with
    state := .vacant
    car := none
    bypass := ⟨false, false⟩
    stripRequested := false
    endReason := none
    seqFlags := ⟨false, false, false⟩
    resumePhase := none
    holdReason := none
    trip := none
    closingRead := .none }

/-- Entry to COMPLETE: with ARMS already false the spot goes on at once to VACANT (R25). -/
def State.enterComplete (s : State) (n : SpotNo) : State :=
  if (s.station n).inputs.arms then s.onSpot n fun r => { r with state := .complete }
  else s.onSpot n SpotRecord.toVacant

/-- The sequencer examines the last inputs in ASSIGNED and in COMPLETE (R6, R25). -/
def State.moveOnInputs (s : State) (n : SpotNo) : State :=
  match (s.spot n).state with
  | .assigned => if (s.station n).inputs.arms && (s.station n).inputs.bond then s.connect n else s
  | .complete => if (s.station n).inputs.arms then s else s.onSpot n SpotRecord.toVacant
  | _ => s

/-! ## Tickets (R167 to R174, R179) -/

/-- The number the ticket after this one takes (R167). -/
def nextSerial (serial : Nat) : Nat := if serial == max32 then 1 else serial + 1

/-- Elapsed TRANSFER time in whole seconds (R74). -/
def SpotRecord.transferTime (r : SpotRecord) : Nat := (r.config.transferLimit * 1000 - r.limitMs) / 1000

/-- The ticket built for a car at the end of its purge (R168 to R173). -/
def buildTicket (number : Nat) (n : SpotNo) (r : SpotRecord) (m : Meter) (c : CarRecord) (reason : EndReason)
    (mode : RoundingMode) : Ticket :=
  let net := roundNet mode m.runningNet
  { number := number
    carId := c.carId
    grade := c.grade
    spot := n
    volume := m.volume
    liquid := m.liquid
    vapourReturned := m.vapourReturned
    vapourRecovered := m.vapourRecovered
    netKg := net
    windows := m.windowsCounted
    estimatedWindows := m.estimatedWindows
    transferTime := r.transferTime
    endReason := reason
    flags := ⟨m.flags, r.seqFlags, decide (net < 0)⟩
    declared := c.declaredMass.map fun kg => ⟨kg, (kg : Int) - net⟩ }

/-- Place a ticket just built: in the queue when it holds fewer than 16, else on the wait list (R174). -/
def TicketUnit.place (u : TicketUnit) (n : SpotNo) (t : Ticket) : TicketUnit :=
  if u.queue.length < 16 then { u with serial := nextSerial u.serial, queue := u.queue ++ [t] }
  else { u with serial := nextSerial u.serial, wait := u.wait ++ [⟨n, t⟩] }

/-- The purge ends: the ticket is built and placed, the car record leaves the spot, which enters COMPLETE or TICKET_WAIT
(R23, R168, R174). Every path into PURGE leaves a car and an end_reason (R172); without them no ticket can be built and
the spot stays (log 23). -/
def State.endPurge (s : State) (n : SpotNo) : State :=
  let r := s.spot n
  match r.car, r.endReason with
  | some c, some reason =>
    let t := buildTicket s.tickets.serial n r (s.meter n) c reason (gradeRounding (s.carGrade n))
    let s' := (s.setTickets (s.tickets.place n t)).onSpot n fun r => { r with car := none }
    if s.tickets.queue.length < 16 then s'.enterComplete n
    else s'.onSpot n fun r => { r with state := .ticketWait }
  | _, _ => s

/-- The closing read is settled (R23): in PURGE with the purge timer expired the purge ends. -/
def State.settleClosing (s : State) (n : SpotNo) : State :=
  let s' := s.onSpot n fun r => { r with closingRead := .settled }
  if (s.spot n).state == .purge && (s.spot n).purgeExpired then s'.endPurge n else s'

/-! ## Windows and closing reads at the metering engine (R50 to R54, R70 to R72) -/

/-- The target_mass of the car at a spot. -/
def State.targetOf (s : State) (n : SpotNo) : Option Nat := (s.spot n).car.bind CarRecord.targetMass

/-- A window is computed and its report given (R53, R52). -/
def State.computeWindow (s : State) (n : SpotNo) (w : WindowRead) (p : Nat) (estimated : Bool) (fresh : Option Nat) :
    State × WindowReport :=
  let c := (s.meter n).computeWindow (s.spot n).config (s.carGrade n) (s.targetOf n) w p estimated fresh
  (s.setMeter n c.1, c.2)

/-- The outstanding window read completes: window_read becomes none and its window is computed (R53). -/
def State.completeWindow (s : State) (n : SpotNo) (p : Nat) (estimated : Bool) (fresh : Option Nat) :
    State × Option WindowReport :=
  match (s.meter n).windowRead with
  | none => (s, none)
  | some w =>
    let c := (s.onMeter n fun m => { m with windowRead := none }).computeWindow n w p estimated fresh
    (c.1, some c.2)

/-- The outstanding window read completes as a miss: p = 0, held values, no fresh car pressure (R54). -/
def State.missWindow (s : State) (n : SpotNo) : State × Option WindowReport := s.completeWindow n 0 true none

/-- The sequencer acts on a window's outcome, in the state of the window's phase alone (R14, R15, R18). -/
def State.takeOutcome (s : State) (n : SpotNo) (r : WindowReport) : State :=
  match (s.spot n).state, r.phase, r.outcome with
  | .transfer, .transfer, .target => s.enterPurge n (some .target)
  | .transfer, .transfer, .empty =>
    if (s.spot n).stripRequested then s.emptyToStripWait n else s.enterPurge n (some .empty)
  | .strip, .strip, .stripEnd =>
    (s.onSpot n fun r => { r with seqFlags := { r.seqFlags with stripped := true } }).enterPurge n none
  | _, _, _ => s

/-- The event causes a window report brings to a spot in a state (R108, R112). -/
def reportCauses (state : SpotState) (r : Option WindowReport) : List TripCause :=
  if state.moving && r.any WindowReport.sensorFault then [.sensorFault] else []

/-- The event cause a fresh car pressure brings to a spot in a state (R108, R112). -/
def pressureCauses (state : SpotState) (g : Option Grade) (fresh : Option Nat) : List TripCause :=
  if state.moving && fresh.any (fun p => gradeMaxPressure g < p) then [.overpressure] else []

/-- The sequencer takes one station event: the causes that rose since `old` and the event causes come first (R113,
R114), then the inputs in ASSIGNED and COMPLETE, then the window's outcome. -/
def State.takeStationEvent (s old : State) (n : SpotNo) (extra : List TripCause) (r : Option WindowReport) : State :=
  let s1 := s.takeCauses n (causeUnion (s.risen old n) extra)
  let s2 := s1.moveOnInputs n
  match r with
  | some report => s2.takeOutcome n report
  | none => s2

/-! ## Strokes (R132 to R138) -/

/-- A stroke starts on a valve (R133, R31): the record, the command state OPENING, the STROKE asked for. -/
def State.startStroke (s : State) (v : ValveIndex) (origin : StrokeOrigin) : State :=
  let n := valveSpot v
  let c := (s.spot n).config
  let limit := match valveSideOf v with
    | .liquid => c.strokeLimitL
    | .vapour => c.strokeLimitV
  ((s.setStroke (some ⟨v, origin, limit, .running (2 * limit)⟩)).onSpot n
    (·.setValve (valveSideOf v) .opening)).request n (.stroke (valveSideOf v))

/-- Every end of a stroke (R137): the stroke record cleared, a STROKE of the station withdrawn, the command state CLOSED,
and a CLOSE asked for where `drive` says so. -/
def State.endStroke (s : State) (k : Stroke) (drive : Bool) : State :=
  let n := valveSpot k.valve
  let s1 := s.setStroke none
  let s2 := s1.setLink ((s1.link.withdraw n .stroke).markWithdrawn n .stroke)
  let s3 := s2.onSpot n (·.setValve (valveSideOf k.valve) .closed)
  if drive then s3.requestClose n else s3

/-- A stroke in flight is ABORTED (R138); `drive` where the siding stop aborts it (R137, step 4). -/
def State.abortStroke (s : State) (drive : Bool) : State :=
  match s.proof.stroke with
  | none => s
  | some k =>
    (s.setProofRecord k.valve { s.proofRecord k.valve with lastResult := some .aborted }).endStroke k drive

/-- A stroke in flight on a valve of a spot is ABORTED, with no CLOSE (R138). -/
def State.abortStrokeOn (s : State) (n : SpotNo) : State := if s.strokeOn n then s.abortStroke false else s

/-- The judgement of a travel time against the limit (R135). -/
def ProofRecord.judge (p : ProofRecord) (limit t : Nat) : ProofRecord :=
  if t ≤ limit then
    { state := .current, elapsed := 0, lastResult := some .pass, lastTravel := some t, faultSource := none }
  else if t ≤ 2 * limit then
    { state := .current, elapsed := 0, lastResult := some .slow, lastTravel := some t, faultSource := none }
  else
    { p with state := .failed, lastResult := some .fail, lastTravel := some t, faultSource := some .stroke }

/-- A DONE reply judges the stroke in flight (R135); a CLOSE follows a FAIL (R137, step 4). -/
def State.judgeStroke (s : State) (k : Stroke) (t : Nat) : State :=
  (s.setProofRecord k.valve ((s.proofRecord k.valve).judge k.limit t)).endStroke k (2 * k.limit < t)

/-- A CURRENT record whose elapsed has reached the interval becomes DUE (R129). -/
def ProofRecord.lapse (p : ProofRecord) (interval : Nat) : ProofRecord :=
  if p.state == .current && interval ≤ p.elapsed then { p with state := .due } else p

/-- VALVE_FAULT marks a record FAILED with fault_source TRAVEL (R130). -/
def ProofRecord.markTravel (p : ProofRecord) : ProofRecord :=
  { p with state := .failed, faultSource := some .travel }

/-! ## A station becomes LOST (R154) -/

/-- The markings an entry has as a SAMPLE_READ. -/
def Txn.marks : Txn → Markings
  | .sampleRead m => m
  | _ => ⟨none, false, false⟩

/-- Whether a SAMPLE_READ marked WINDOW is among entries. -/
def anyWindow (l : List LinkEntry) : Bool := l.any fun e => e.txn.marks.window.isSome

/-- Whether a SAMPLE_READ marked CLOSING is among entries. -/
def anyClosing (l : List LinkEntry) : Bool := l.any fun e => e.txn.marks.closing

/-- A window read of a station is completed as a miss where one is owed. -/
def State.missWindowIf (s : State) (n : SpotNo) (owed : Bool) : State × Option WindowReport :=
  if owed then s.missWindow n else (s, none)

/-- Every transaction of a station, pending or the one that missed, is disposed of: a window read completes as a miss, a
closing read is abandoned, a stroke ABORTED, the rest withdrawn; the sequencer takes the change of status and these
completions as one event (R154, R111). `old` is the state before the event. -/
def State.dispose (s old : State) (n : SpotNo) (missed : List LinkEntry) : State :=
  let mine := missed ++ s.link.entries.filter fun e => e.station == some n
  let s1 := s.setLink { s.link with entries := s.link.entries.filter fun e => e.station != some n }
  let w := s1.missWindowIf n (anyWindow mine)
  let abandoned := anyClosing mine && (s.meter n).closingRequest
  let s2 := if abandoned then w.1.onMeter n Meter.abandonClosing else w.1
  let s3 := s2.abortStrokeOn n
  let s4 := s3.takeStationEvent old n (reportCauses (old.spot n).state w.2) w.2
  let s5 := if abandoned then s4.settleClosing n else s4
  s5.judgePollIf (mine.any fun e => e.txn.holdsPoll)

/-- A station becomes LOST (R154): misses 3, the recovery timer loaded with 1 s, its transactions disposed of. -/
def State.becomeLost (s old : State) (n : SpotNo) (missed : List LinkEntry) : State :=
  (s.onStation n fun t => { t with status := .lost, misses := 3, recovery := .seconds 1 }).dispose old n missed

/-! ## Who is told first (log 6) -/

/-- Put an item into a list at a place; past the end it goes last. -/
def insertAt {α : Type} : List α → Nat → α → List α
  | [], _, a => [a]
  | b :: l, 0, a => a :: b :: l
  | b :: l, i + 1, a => b :: insertAt l i a

/-- A list in an order that the free choices fix: every order is possible. -/
def arrange {α : Type} : Nat → List α → List α
  | _, [] => []
  | k, a :: l => insertAt (arrange (k + 1) l) (Config.freeChoice k % (l.length + 1)) a

/-- Each of some neighbours takes a change, in an order the spec leaves free. -/
def State.tellAll {α : Type} (s : State) (told : List α) (f : State → α → State) : State :=
  (arrange s.choices told).foldl f { s with choices := s.choices + told.length }

/-! ## Replies (R187) -/

/-- What an owning block answers to a request: the status, the result and the state it leaves. -/
structure Verdict where
  status : Status
  result : List Byte
  state : State

/-- A refusal leaves every block as it was (R188). -/
def State.refuse (s : State) (status : Status) (result : List Byte := []) : Verdict := ⟨status, result, s⟩

/-- The line unit composes the reply and sends it (R187): the reply code is the request's with bit 7 set (R183), the
summary is taken now (R189). A discard noted while ANSWERING is kept (R185, log 2). -/
def State.answer (s : State) (code tag : Byte) (status : Status) (result : List Byte) : State :=
  s.setLine { s.line with
    mode := .answering
    buffer := []
    gap := .stopped
    discardNoted := s.line.mode == .answering && s.line.discardNoted
    request := none
    reply := some ⟨code ||| 0x80#8, tag, status, s.summary, result⟩ }

/-- A request of a body length is handed to its owner, or answered LENGTH (R186), and the reply is sent (R187). -/
def State.serve (s : State) (code tag : Byte) (body : List Byte) (length : Nat) (owner : State → Verdict) : State :=
  if body.length = length then
    let v := owner s
    v.state.answer code tag v.status v.result
  else s.answer code tag .length []

end Sys2Proof.Machine
end

