-- ==== Sys2Proof/Machine/Inputs.lean ====
section
/-! DEFINITION. Changes of the discrete inputs (chapters 5, 6 and 8). A command naming the level an input already has is no
change (log 16). -/

namespace Sys2Proof.Machine

/-! ## The siding stop (R125) -/

/-- Who is told that the siding stop became active and is touched by it: the trip-armed and TRIPPED spots, and the proof
scheduler (`none`) while a stroke is in flight. -/
def State.stopTold (s : State) : List (Option SpotNo) :=
  ((allSpots.filter fun n => (s.spot n).state.armed || (s.spot n).state == .tripped).map some) ++
    if s.proof.stroke.isSome then [none] else []

/-- One of them takes the siding stop (R125, R138). -/
def State.takeStop (s : State) : Option SpotNo → State
  | some n => s.takeCauses n [.sidingStop]
  | none => s.abortStroke true

/-- SIDING_STOP_ACTIVE (R125). -/
def execSidingStopActive (s : State) : Host.Outcome State Fault Refusal :=
  if s.siding.stopActive then .next s
  else .next ((s.setSiding { s.siding with stopActive := true }).tellAll s.stopTold State.takeStop)

/-- SIDING_STOP_CLEAR (R125). -/
def execSidingStopClear (s : State) : Host.Outcome State Fault Refusal :=
  .next (s.setSiding { s.siding with stopActive := false })

/-! ## The compressor inputs (R101, R102) -/

/-- A changeover in flight is abandoned (R101). -/
def Compressor.abandonChangeover (c : Compressor) : Compressor :=
  if c.mode == .changeover then { c with mode := .idle, target := none, changeover := .stopped } else c

/-- Whether the expiry of a changeover in flight is owed at this moment, and so reaches the allocator together with an
event of it (R97). -/
def Compressor.changeoverDue (c : Compressor) : Bool := c.mode == .changeover && c.changeover.isDue

/-- Where the expiry and the fault reach the allocator together, the order decides (R97): the free choice (log 33) takes
either first. `s` has the fault state active already, so that an expiry taken first finds grants frozen. -/
def State.expiryBesideFault (s : State) : State :=
  if s.comp.changeoverDue then
    let t := { s with choices := s.choices + 1 }
    if Config.freeChoice s.choices % 2 = 0 then t else t.completeChangeover
  else s

/-- The spots in TRANSFER or STRIP. -/
def State.movingSpots (s : State) : List SpotNo := allSpots.filter fun n => (s.spot n).state.moving

/-- COMPRESSOR_FAULT_ACTIVE (R101, R97). -/
def execCompressorFaultActive (s : State) : Host.Outcome State Fault Refusal :=
  if s.siding.faultActive then .next s
  else
    let s1 := (s.setSiding { s.siding with faultActive := true }).expiryBesideFault
    .next ((s1.setComp s1.comp.abandonChangeover).tellAll s.movingSpots fun t n => t.enterHeld n .compressor)

/-- COMPRESSOR_FAULT_CLEAR (R102). -/
def execCompressorFaultClear (s : State) : Host.Outcome State Fault Refusal :=
  if s.siding.faultActive then .next (s.setSiding { s.siding with faultActive := false }).examine else .next s

/-- COMPRESSOR_RUN_CHANGE (R102): STATUS reports the level; nothing else depends on it. -/
def execCompressorRunChange (level : Bool) (s : State) : Host.Outcome State Fault Refusal :=
  .next (s.setSiding { s.siding with runInput := level })

/-! ## The attention line (R161, R162) -/

/-- ATTENTION_LINE_ACTIVE (R162): the line's change to active is an event of the link scheduler; its return to inactive
leaves only the level (R161, log 9). -/
def execAttentionLineActive (level : Bool) (s : State) : Host.Outcome State Fault Refusal :=
  .next ((s.setLink { s.link with attentionLine := level }).judgePollIf (level && !s.link.attentionLine))

end Sys2Proof.Machine
end

