-- ==== Sys2Proof/Machine/LineUnit.lean ====
section
/-! DEFINITION. The commands of the supervisory line unit: power-on reset, bytes of the line, the gap timer, the end of a
reply, and a request outside the table (chapter 10). -/

namespace Sys2Proof.Machine

/-- POWER_ON_RESET (R198): every block at its power-on values, with the pin levels it first reads. -/
def execPowerOnReset (pins : PinLevels) (s : State) : Host.Outcome State Fault Refusal :=
  .next (State.powerOn pins s.pending s.choices)

/-- A frame is discarded: HUNT, with the gap timer loaded (R185); no discard is noted there (log 26). -/
def LineUnit.enterHunt (l : LineUnit) : LineUnit :=
  { l with mode := .hunt, buffer := [], gap := .running 20, discardNoted := false }

/-- The quiet line was seen: LISTEN (R185), with an empty buffer and the gap timer stopped (log 26). -/
def LineUnit.enterListen (l : LineUnit) : LineUnit :=
  { l with mode := .listen, buffer := [], gap := .stopped, discardNoted := false }

/-- A whole request is taken: ANSWERING, with the request on its way to its owner (R185, R186; log 3), an empty buffer,
the gap timer stopped and no discard noted (log 26). -/
def LineUnit.enterAnswering (l : LineUnit) (request : Instr) : LineUnit :=
  { l with mode := .answering, buffer := [], gap := .stopped, discardNoted := false, request := some request,
           reply := none }

/-- The request in a receive buffer that holds a whole frame with `length` in its length field (R183). -/
def requestIn (buffer : List Byte) (length : Nat) : Instr :=
  requestOf (byteAt buffer 3) (byteAt buffer 4) (bytesAt buffer 5 (length - 2))

/-- The frame checks of R186 on the bytes accumulated, the last one just stored: the length field once both its bytes
are in, the CRC once the frame is whole; else the byte is kept and the gap timer reloaded. -/
def LineUnit.check (l : LineUnit) (buffer : List Byte) : LineUnit :=
  let length := num2 buffer 1
  if buffer.length < 3 then { l with buffer := buffer, gap := .running 20 }
  else if !inRange 2 1025 length then l.enterHunt
  else if buffer.length < length + 5 then { l with buffer := buffer, gap := .running 20 }
  else if lineCrcChecks buffer then l.enterAnswering (requestIn buffer length)
  else l.enterHunt

/-- A byte arrives (R185, the first row of its second table). -/
def LineUnit.take (l : LineUnit) (b : Byte) : LineUnit :=
  match l.mode with
  | .hunt => { l with gap := .running 20 }
  | .listen => if b == 0xC3#8 then { l with mode := .receiving, buffer := [b], gap := .running 20 } else l
  | .receiving => l.check (l.buffer ++ [b])
  | .answering => { l with discardNoted := true }

/-- LINE_BYTE_RECEIVED (R185). -/
def execLineByteReceived (b : Byte) (s : State) : Host.Outcome State Fault Refusal :=
  .next (s.setLine (s.line.take b))

/-- A byte with a framing error arrives (R185, the second row). -/
def LineUnit.framingError (l : LineUnit) : LineUnit :=
  match l.mode with
  | .hunt => { l with gap := .running 20 }
  | .listen => l
  | .receiving => l.enterHunt
  | .answering => { l with discardNoted := true }

/-- LINE_FRAMING_ERROR (R185). -/
def execLineFramingError (s : State) : Host.Outcome State Fault Refusal :=
  .next (s.setLine s.line.framingError)

/-- The gap timer expires (R185, the third row): it runs in HUNT and in RECEIVING alone. -/
def LineUnit.gapExpiry (l : LineUnit) : LineUnit :=
  match l.gap with
  | .stopped => l
  | .running _ =>
    match l.mode with
    | .hunt => l.enterListen
    | .receiving => l.enterHunt
    | .listen | .answering => { l with gap := .stopped }

/-- GAP_TIMER_EXPIRY (R185). -/
def execGapTimerExpiry (s : State) : Host.Outcome State Fault Refusal :=
  .next (s.setLine s.line.gapExpiry)

/-- The last byte of the reply has been sent (R185, the fourth row). -/
def LineUnit.replySent (l : LineUnit) : LineUnit :=
  match l.mode, l.reply with
  | .answering, some _ =>
    if l.discardNoted then { l.enterHunt with reply := none } else { l.enterListen with reply := none }
  | _, _ => l

/-- REPLY_LAST_BYTE_SENT (R185). -/
def execReplyLastByteSent (s : State) : Host.Outcome State Fault Refusal :=
  .next (s.setLine s.line.replySent)

/-- UNSUPPORTED_REQUEST (R186, check 1): the reply is UNSUPPORTED with no result data, and no other block changes. A
code that is in the table of R190 makes no such event (log 17). -/
def execUnsupportedRequest (code tag : Byte) (_body : List Byte) (s : State) : Host.Outcome State Fault Refusal :=
  if isRequestCode code then .fault .notThisCommand else .next (s.answer code tag .unsupported [])

end Sys2Proof.Machine
end

