-- ==== Sys2Proof/Machine/LinkEvents.lean ====
section
/-! DEFINITION. Sending on the spot link, and every completion of a transaction: replies, misses, the attention poll
(chapter 8). Inside one completion the station record is updated first, then the transaction is dealt with, then its
asker and the sequencer take the event (R157, log 12); of a valve transaction's completion the sequencer takes the trip
causes before the result of R29 (log 32). -/

namespace Sys2Proof.Machine

/-- TRANSACTION_SEND (R150). -/
def execTransactionSend (s : State) : Host.Outcome State Fault Refusal := .next (s.setLink s.link.send)

/-! ## Shared steps of a completion -/

/-- The link is free (R144). -/
def State.freeLink (s : State) : State := s.setLink { s.link with inFlight := none }

/-- A transaction returns to the tail of its class with a hold-off; one marked withdrawn is finished (R151). -/
def State.returnEntry (s : State) (f : InFlight) (txn : Txn) (holdOff : Timer) : State :=
  if f.mark == .live then s.join { f.entry with txn := txn, holdOff := holdOff } else s

/-- The hold-off after NOT_DONE (R151). -/
def notDoneHoldOff : Timer := .running 100

/-- A reply with PRESENT set updates the station record (R153). -/
def Station.heard (t : Station) (r : LinkReply) : Station :=
  { t with misses := 0, status := if r.localOp then .localOp else .online }

/-- The markings of a SAMPLE_READ without WINDOW, which return where any is left (R151, R156). -/
def State.returnRead (s : State) (f : InFlight) (m : Markings) : State :=
  let left : Markings := { m with window := none }
  if left.isEmpty then s else s.returnEntry f (.sampleRead left) .stopped

/-- The transaction of a miss or of a reply with PRESENT clear is dealt with, short of a third miss (R151, R156): a
window read completes as a miss would complete it. -/
def State.dealAgain (s : State) (n : SpotNo) (f : InFlight) : State × Option WindowReport :=
  match f.entry.txn with
  | .sampleRead m => (s.returnRead f m).missWindowIf n m.window.isSome
  | t => (s.returnEntry f t .stopped, none)

/-- A miss on the transaction in flight to station `n` (R151, R153, R154); `s` with the link free, `old` before the
event. -/
def State.missed (s old : State) (n : SpotNo) (f : InFlight) : State :=
  let t := s.station n
  if t.status == .lost then
    (s.onStation n fun t => { t with misses := 3, recovery := .seconds 1 }).dispose old n [f.entry]
  else if 3 ≤ t.misses + 1 then s.becomeLost old n [f.entry]
  else
    let d := (s.onStation n fun t => { t with misses := t.misses + 1 }).dealAgain n f
    d.1.takeStationEvent old n (reportCauses (old.spot n).state d.2) d.2

/-- A reply with PRESENT clear (R156): UNKNOWN, an INITIALIZE queued unless one is pending or the transaction itself is
one, and the transaction dealt with. -/
def State.notInitialized (s old : State) (n : SpotNo) (f : InFlight) : State :=
  let s1 := s.onStation n fun t => { t with misses := 0, status := .unknown }
  let s2 := if f.entry.txn.kind == .initStation then s1 else s1.queueInit n
  let d := s2.dealAgain n f
  d.1.takeStationEvent old n (reportCauses (old.spot n).state d.2) d.2

/-- A reply frame of a kind reaches the link scheduler. With nothing in flight, or a poll, it is disregarded (R144,
log 10); a frame that is no valid reply to the transaction in flight is a miss (R144); a dropped transaction changes
nothing but frees the link (R153, R165); a reply with PRESENT clear is taken by R156; else `taken` takes it, from the
state with the link free and the state before. -/
def State.takeReply (s : State) (kind : LinkKind) (frame : List Byte)
    (taken : State → State → SpotNo → InFlight → LinkReply → State) : State :=
  match s.link.inFlight with
  | none => s
  | some f =>
    match f.entry.station with
    | none => s
    | some n =>
      if f.mark == .dropped then s.freeLink.judgePollIf f.entry.txn.holdsPoll
      else if f.entry.txn.kind != kind then s.freeLink.missed s n f
      else match takeFrame n kind frame with
        | none => s.freeLink.missed s n f
        | some r => if r.present then taken s.freeLink s n f r else s.freeLink.notInitialized s n f

/-- SPOT_LINK_MISS (R151); a poll has no miss (R162). -/
def execSpotLinkMiss (s : State) : Host.Outcome State Fault Refusal :=
  match s.link.inFlight with
  | none => .next s
  | some f =>
    match f.entry.station with
    | none => .next s
    | some n =>
      if f.mark == .dropped then .next (s.freeLink.judgePollIf f.entry.txn.holdsPoll)
      else .next (s.freeLink.missed s n f)

/-! ## The replies -/

/-- The station's counter was cleared by an INITIALIZE: booking starts at 0 (R155). -/
def Station.initialized (t : Station) : Station := { t with booked := 0, ackOutstanding := none, recovery := .stopped }

/-- The first reply to an INITIALIZE (R155): booking reset, a pending COUNT_ACK withdrawn, and PULSES_UNREAD where the
spot is trip-armed or TRIPPED (R73, R118). -/
def State.firstInitReply (s : State) (n : SpotNo) : State :=
  let s1 := s.onStation n Station.initialized
  let s2 := s1.setLink (s1.link.withdraw n .countAck)
  if (s.spot n).state.armed || (s.spot n).state == .tripped then
    s2.onMeter n fun m => { m with flags := { m.flags with pulsesUnread := true } }
  else s2

/-- Whether an INITIALIZE has been answered NOT_DONE before (log 20). -/
def Txn.answeredBefore : Txn → Bool
  | .initStation answered => answered
  | _ => false

/-- A reply to INITIALIZE with PRESENT set (R155, R29, R204): on DONE the sequencer completes its closes, and the
station's first read is queued. The model's choice (log 32): the causes of the reply come before the DONE, so that where
LOCAL rises with it in TRANSFER or STRIP the valves end CLOSED; the spec states no order between the two. -/
def State.initReplied (s old : State) (n : SpotNo) (f : InFlight) (r : LinkReply) : State :=
  let s1 := s.onStation n (·.heard r)
  let s2 := if f.entry.txn.answeredBefore then s1 else s1.firstInitReply n
  if r.done then
    ((s2.takeStationEvent old n [] none).initDone n).request n (.sampleRead ⟨none, false, true⟩)
  else (s2.returnEntry f (.initStation true) notDoneHoldOff).takeStationEvent old n [] none

/-- INITIALIZE_REPLY (R155). -/
def execInitializeReply (frame : List Byte) (s : State) : Host.Outcome State Fault Refusal :=
  .next (s.takeReply .initStation frame State.initReplied)

/-- A reply that carries valve positions replaces them (R153). -/
def Station.reportPositions (t : Station) (d : List Byte) : Station :=
  { t with positions := some (readPositions (num1 d 0)) }

/-- NOT_DONE sends the transaction again; DONE finishes it (R151). -/
def State.sendAgainUnlessDone (s : State) (f : InFlight) (r : LinkReply) : State :=
  if r.done then s else s.returnEntry f f.entry.txn notDoneHoldOff

/-- A reply to CLOSE with PRESENT set (R29, R153). The model's choice (log 32): the causes of the reply come before the
DONE, so that a trip empties open_deferred first and the valves end CLOSED; the spec states no order between the two. -/
def State.closeReplied (s old : State) (n : SpotNo) (f : InFlight) (r : LinkReply) : State :=
  let s1 := (s.onStation n fun t => (t.heard r).reportPositions r.data).sendAgainUnlessDone f r
  let s2 := s1.takeStationEvent old n [] none
  if r.done then s2.closeDone n else s2

/-- CLOSE_REPLY (R29). -/
def execCloseReply (frame : List Byte) (s : State) : Host.Outcome State Fault Refusal :=
  .next (s.takeReply .close frame State.closeReplied)

/-- The valves a VALVE_OPEN names. -/
def Txn.valves : Txn → ValveSet
  | .valveOpen set => set
  | _ => .none

/-- A reply to VALVE_OPEN with PRESENT set (R29, R153). The causes of the reply come before the DONE (log 32): a trip makes
the valves CLOSING in either order. -/
def State.openReplied (s old : State) (n : SpotNo) (f : InFlight) (r : LinkReply) : State :=
  let s1 := (s.onStation n fun t => (t.heard r).reportPositions r.data).sendAgainUnlessDone f r
  let s2 := s1.takeStationEvent old n [] none
  if r.done then s2.onSpot n (·.openDone f.entry.txn.valves) else s2

/-- VALVE_OPEN_REPLY (R29). -/
def execValveOpenReply (frame : List Byte) (s : State) : Host.Outcome State Fault Refusal :=
  .next (s.takeReply .valveOpen frame State.openReplied)

/-- A SAMPLE_READ reply replaces the inputs and the positions (R153). -/
def Station.report (t : Station) (x : Sample) : Station :=
  { t with inputs := x.inputs, positions := some x.positions }

/-- Whether a read books pulses (R158). -/
def Markings.books (m : Markings) : Bool := m.window.isSome || m.closing

/-- The pulse count of a reply: its total less the booked count, or 0 where the total is below it (R158). -/
def pulseCount (total booked : Nat) : Nat := total - booked

/-- A reply that books pulses sets booked to its total, and an acknowledgement outstanding where that is above 0
(R158). -/
def Station.book (t : Station) (x : Sample) : Station :=
  { t with booked := x.total, ackOutstanding := if 0 < x.total then some ⟨x.seq, x.total⟩ else t.ackOutstanding }

/-- The closing read is booked: stages 1 to 3, and closing_request none (R70). -/
def Meter.bookClosing (m : Meter) (c : SpotConfig) (g : Option Grade) (p : Nat) : Meter :=
  { m.bookLiquid c g p with closingRequest := false }

/-- The metering engine takes a SAMPLE_READ reply: the held values are renewed, then the window and the closing read its
markings name are completed, the closing read with no pulses where the window took them (R57, R70, R71). -/
def State.meterReply (s : State) (n : SpotNo) (m : Markings) (x : Sample) (p : Nat) : State × Option WindowReport :=
  let s1 := s.onMeter n (·.renew x)
  let w := if m.window.isSome then s1.completeWindow n p x.usesHeld x.carPressure else (s1, none)
  if m.closing && (s.meter n).closingRequest then
    (w.1.onMeter n (·.bookClosing (s.spot n).config (s.carGrade n) (if w.2.isSome then 0 else p)), w.2)
  else w

/-- A reply to SAMPLE_READ with PRESENT set (R157, R158, R163): NOT_DONE sends the read again with its markings (R147,
R151), and either way the reply is taken whole (R147; log 11). -/
def State.sampleReplied (s old : State) (n : SpotNo) (f : InFlight) (r : LinkReply) : State :=
  let m := f.entry.txn.marks
  let x := readSample r.data
  let p := pulseCount x.total (s.station n).booked
  let heard := s.onStation n fun t => if m.books then ((t.heard r).report x).book x else (t.heard r).report x
  let s1 := heard.sendAgainUnlessDone f r
  let w := s1.meterReply n m x p
  let extra := causeUnion (reportCauses (old.spot n).state w.2)
    (pressureCauses (old.spot n).state (old.carGrade n) x.carPressure)
  let s2 := w.1.takeStationEvent old n extra w.2
  let s3 := if m.closing && (old.meter n).closingRequest then s2.settleClosing n else s2
  let s4 := if m.books && 0 < x.total then s3.request n (.countAck x.seq x.total) else s3
  let s5 := if m.attention then s4.request n .clear else s4
  s5.judgePollIf m.attention

/-- SAMPLE_READ_REPLY (R157). -/
def execSampleReadReply (frame : List Byte) (s : State) : Host.Outcome State Fault Refusal :=
  .next (s.takeReply .sampleRead frame State.sampleReplied)

/-- The amount a COUNT_ACK names. -/
def Txn.ackAmount : Txn → Nat
  | .countAck _ amount => amount
  | _ => 0

/-- A COUNT_ACK answered DONE: booked decreases by the amount, and nothing is outstanding (R159). -/
def Station.acked (t : Station) (amount : Nat) : Station := { t with booked := t.booked - amount, ackOutstanding := none }

/-- A reply to COUNT_ACK with PRESENT set (R159). -/
def State.ackReplied (s old : State) (n : SpotNo) (f : InFlight) (r : LinkReply) : State :=
  let s1 := s.onStation n fun t => if r.done then (t.heard r).acked f.entry.txn.ackAmount else t.heard r
  (s1.sendAgainUnlessDone f r).takeStationEvent old n [] none

/-- COUNT_ACK_REPLY (R159). -/
def execCountAckReply (frame : List Byte) (s : State) : Host.Outcome State Fault Refusal :=
  .next (s.takeReply .countAck frame State.ackReplied)

/-- Whether a STROKE transaction to a station names a valve (R134). -/
def Txn.strokes (t : Txn) (n : SpotNo) (v : ValveIndex) : Bool :=
  match t with
  | .stroke side => valveIndex n side == v
  | _ => false

/-- A reply to STROKE with PRESENT set (R134, R135): DONE judges the stroke in flight where it names its valve. The
completion of a STROKE withdrawn at the end of its stroke is disregarded, whatever stroke has begun since (R137, R151). -/
def State.strokeReplied (s old : State) (n : SpotNo) (f : InFlight) (r : LinkReply) : State :=
  let s1 := (s.onStation n (·.heard r)).sendAgainUnlessDone f r
  let s2 := s1.takeStationEvent old n [] none
  match s2.proof.stroke with
  | none => s2
  | some k =>
    if r.done && f.mark == .live && f.entry.txn.strokes n k.valve then s2.judgeStroke k (num2 r.data 0) else s2

/-- STROKE_REPLY (R134). -/
def execStrokeReply (frame : List Byte) (s : State) : Host.Outcome State Fault Refusal :=
  .next (s.takeReply .stroke frame State.strokeReplied)

/-- A reply to CLEAR with PRESENT set (R164): R162 is judged again. -/
def State.clearReplied (s old : State) (n : SpotNo) (f : InFlight) (r : LinkReply) : State :=
  ((((s.onStation n (·.heard r)).sendAgainUnlessDone f r).takeStationEvent old n [] none)).judgePoll

/-- CLEAR_REPLY (R164). -/
def execClearReply (frame : List Byte) (s : State) : Host.Outcome State Fault Refusal :=
  .next (s.takeReply .clear frame State.clearReplied)

/-! ## The attention poll (R162, R163) -/

/-- How a slot is taken (R162). -/
inductive SlotVerdict
  | flagged
  | notFlagged
  | notInitialized
  deriving DecidableEq, Repr

/-- Whether the bytes of a slot hold a frame of this station and of kind ATTENTION_POLL whose CRC checks. -/
def slotFrameChecks (n : SpotNo) (frame : List Byte) : Bool :=
  num1 frame 2 + 4 ≤ frame.length
    && byteAt frame (num1 frame 2 + 3) == crc8 (frame.take (num1 frame 2 + 3))
    && byteAt frame 0 == addressByte (some n)
    && num1 frame 1 == LinkKind.attentionPoll.code

/-- The table of R162; a wrong address or kind is taken as a failed reply, an attention byte other than 0 as latched
(log 15). -/
def judgeSlot (n : SpotNo) (frame : List Byte) : SlotVerdict :=
  if frame.isEmpty then .notFlagged
  else if !slotFrameChecks n frame then .flagged
  else if !bit (num1 frame 3) 0 && (num1 frame 2 == 1 || num1 frame 2 == 2) then .notInitialized
  else if num1 frame 2 != 2 then .flagged
  else if num1 frame 4 == 0 then .notFlagged
  else .flagged

/-- Whether the link scheduler acts on what a poll says of a station: in the mask, and not LOST (R162, R163). -/
def State.heeds (s : State) (n : SpotNo) : Bool := s.link.mask.contains n && (s.station n).status != .lost

/-- The stations a poll found with a verdict and that are heeded, ascending. -/
def State.slotsFound (s : State) (slots : List (List Byte)) (v : SlotVerdict) : List SpotNo :=
  allSpots.filter fun n => judgeSlot n (slots.getD n.val []) == v && s.heeds n

/-- A slot with PRESENT clear (R162, R156; log 29). -/
def State.pollNotInitialized (s : State) (n : SpotNo) : State :=
  ((s.onStation n fun t => { t with misses := 0, status := .unknown }).queueInit n).takeStationEvent s n [] none

/-- A completed poll: stations not initialized are sent INITIALIZE, flagged ones are read, and with no read queued the
poll hold-off timer is loaded (R162, R163). The model's choice (log 35): those of one poll are taken in ascending order of
station, the INITIALIZEs first, and so join their classes in that order; the spec states none. -/
def State.pollDone (s : State) (slots : List (List Byte)) : State :=
  let flagged := s.slotsFound slots .flagged
  let s1 := (s.slotsFound slots .notInitialized).foldl State.pollNotInitialized s
  let s2 := flagged.foldl (fun t n => t.request n (.sampleRead ⟨none, false, true⟩)) s1
  let s3 := if flagged.isEmpty then s2.setLink { s2.link with pollHoldOff := .seconds 1 } else s2
  s3.judgePoll

/-- ATTENTION_POLL_COMPLETE (R163); with no poll in flight there is none to complete. -/
def execAttentionPollComplete (slots : List (List Byte)) (s : State) : Host.Outcome State Fault Refusal :=
  match s.link.inFlight with
  | none => .next s
  | some f =>
    if f.entry.txn.kind != .attentionPoll then .next s
    else if f.mark == .dropped then .next s.freeLink.judgePoll
    else .next (s.freeLink.pollDone slots)

end Sys2Proof.Machine
end

