-- ==== Sys2Proof/Machine/Manifest.lean ====
section
/-! DEFINITION. The requests of the manifest unit (chapter 2). -/

namespace Sys2Proof.Machine

/-- The most records the manifest holds (R34). -/
def manifestCapacity : Nat := 24

/-- The position of the record with an id (R36). -/
def carPosition (m : List CarRecord) (id : List Byte) : Option Nat := m.findIdx? fun c => c.carId == id

/-- The spot whose car has an id (R36). -/
def State.spotHolding (s : State) (id : List Byte) : Option SpotNo :=
  allSpots.find? fun n => (s.spot n).car.any fun c => c.carId == id

/-- What the manifest unit makes of CAR_ADD (R37). -/
def State.addCar (body : List Byte) (s : State) : Verdict :=
  match readCarRecord body with
  | none => s.refuse .range
  | some c =>
    match carPosition s.manifest c.carId, s.spotHolding c.carId with
    | some p, _ => s.refuse .duplicate [0, byte1 p]
    | none, some n => s.refuse .duplicate [1, byte1 n.val]
    | none, none =>
      if manifestCapacity ≤ s.manifest.length then s.refuse .full
      else ⟨.ok, [byte1 s.manifest.length, byte1 (s.manifest.length + 1)], s.setManifest (s.manifest ++ [c])⟩

/-- CAR_ADD (R37). -/
def execCarAdd (tag : Byte) (body : List Byte) (s : State) : Host.Outcome State Fault Refusal :=
  .next (s.serve 0x01 tag body 24 (State.addCar body))

/-- What the manifest unit makes of CAR_WITHDRAW (R38). -/
def State.withdrawCar (body : List Byte) (s : State) : Verdict :=
  match readCarId body 0 with
  | none => s.refuse .range
  | some id =>
    match (carPosition s.manifest id).bind fun p => (s.manifest[p]?).map fun c => (p, c) with
    | some (p, c) =>
      ⟨.ok, c.bytes ++ [byte1 p, byte1 (s.manifest.length - 1)], s.setManifest (s.manifest.eraseIdx p)⟩
    | none =>
      match s.spotHolding id with
      | some n => s.refuse .busy [byte1 n.val]
      | none => s.refuse .unknown

/-- CAR_WITHDRAW (R38). -/
def execCarWithdraw (tag : Byte) (body : List Byte) (s : State) : Host.Outcome State Fault Refusal :=
  .next (s.serve 0x02 tag body 13 (State.withdrawCar body))

/-- What the manifest unit makes of CAR_MOVE (R39). -/
def State.moveCar (body : List Byte) (s : State) : Verdict :=
  match readCarId body 0 with
  | none => s.refuse .range
  | some id =>
    match (carPosition s.manifest id).bind fun p => (s.manifest[p]?).map fun c => (p, c) with
    | some (p, c) =>
      if num1 body 13 < s.manifest.length then
        ⟨.ok, [byte1 p, byteAt body 13], s.setManifest ((s.manifest.eraseIdx p).insertIdx (num1 body 13) c)⟩
      else s.refuse .range
    | none =>
      match s.spotHolding id with
      | some n => s.refuse .busy [byte1 n.val]
      | none => s.refuse .unknown

/-- CAR_MOVE (R39). -/
def execCarMove (tag : Byte) (body : List Byte) (s : State) : Host.Outcome State Fault Refusal :=
  .next (s.serve 0x03 tag body 14 (State.moveCar body))

/-- What the manifest unit answers to CAR_LIST (R40). -/
def State.listCars (s : State) : Verdict :=
  ⟨.ok, byte1 s.manifest.length :: s.manifest.flatMap CarRecord.bytes, s⟩

/-- CAR_LIST (R40). -/
def execCarList (tag : Byte) (body : List Byte) (s : State) : Host.Outcome State Fault Refusal :=
  .next (s.serve 0x04 tag body 0 State.listCars)

/-! ## Selection on assignment (R41, R42) -/

/-- A set of spots admits a spot when it is absent or contains it (R41). -/
def CarRecord.admits (c : CarRecord) (n : SpotNo) : Bool := c.spotSet.all fun set => set.contains n

/-- The selection with NEXT (R41). -/
def selectNext (m : List CarRecord) (n : SpotNo) : Except Status (Nat × CarRecord) :=
  match (m.findIdx? fun c => c.admits n).bind fun p => (m[p]?).map fun c => (p, c) with
  | some found => .ok found
  | none => .error .empty

/-- The selection by id (R42), where the id keeps the character rules. -/
def selectById (m : List CarRecord) (n : SpotNo) (id : Option (List Byte)) : Except Status (Nat × CarRecord) :=
  match id with
  | none => .error .range
  | some chars =>
    match (carPosition m chars).bind fun p => (m[p]?).map fun c => (p, c) with
    | none => .error .unknown
    | some (p, c) => if c.admits n then .ok (p, c) else .error .range

end Sys2Proof.Machine
end

