-- ==== Sys2Proof/Machine/SpotRequests.lean ====
section
/-! DEFINITION. The requests of the spot sequencers (chapters 1 and 6). -/

namespace Sys2Proof.Machine

/-- A spot request takes its spot field first; a number above 5 is refused RANGE (R4). -/
def State.forSpot (body : List Byte) (owner : SpotNo → State → Verdict) (s : State) : Verdict :=
  match spotOf (num1 body 0) with
  | none => s.refuse .range
  | some n => owner n s

/-! ## Assignment and release -/

/-- The metering record on an accepted SPOT_ASSIGN (R49): the held values stay. -/
def Meter.onAssign (m : Meter) : Meter :=
  { Meter.fresh with heldT := m.heldT, heldDp := m.heldDp, heldPv := m.heldPv, heldCarPressure := m.heldCarPressure }

/-- The spot record on an accepted SPOT_ASSIGN (R5), in ASSIGNED: the bypass set, the valve command states and their
travel timers stay. -/
def SpotRecord.onAssign (r : SpotRecord) (c : CarRecord) : SpotRecord :=
  { r with
    state := .assigned
    car := some c
    stripRequested := false
    endReason := none
    seqFlags := ⟨false, false, false⟩
    resumePhase := none
    holdReason := none
    trip := none
    closingRead := .none
    purgeExpired := false
    limitMs := r.config.transferLimit * 1000
    limitRunning := false }

/-- A record leaves the manifest and is bound to a spot, which goes on by its station's last inputs (R5, R43). -/
def State.bindCar (s : State) (n : SpotNo) (p : Nat) (c : CarRecord) : State :=
  (((s.setManifest (s.manifest.eraseIdx p)).onMeter n Meter.onAssign).onSpot n (·.onAssign c)).moveOnInputs n

/-- The record a SPOT_ASSIGN selects (R5, check 4). -/
def State.selectCar (s : State) (body : List Byte) (n : SpotNo) : Except Status (Nat × CarRecord) :=
  if num1 body 1 == 0 then selectNext s.manifest n else selectById s.manifest n (readCarId body 2)

/-- What the sequencer makes of SPOT_ASSIGN (R4, R5). -/
def State.assign (body : List Byte) (n : SpotNo) (s : State) : Verdict :=
  if (s.spot n).state != .vacant then s.refuse .busy
  else if 1 < num1 body 1 then s.refuse .range
  else if !(s.spot n).config.present then s.refuse .range
  else if s.strokeOn n then s.refuse .busy
  else if (s.station n).status == .lost then s.refuse .notPermitted
  else match s.selectCar body n with
    | .error status => s.refuse status
    | .ok (p, c) =>
      let s' := s.bindCar n p c
      ⟨.ok, byte1 (s'.spot n).state.code :: c.bytes, s'⟩

/-- SPOT_ASSIGN (R5). -/
def execSpotAssign (tag : Byte) (body : List Byte) (s : State) : Host.Outcome State Fault Refusal :=
  .next (s.serve 0x05 tag body 15 (State.forSpot body (State.assign body)))

/-- The states a car can be released in (R8). -/
def SpotState.releasable : SpotState → Bool
  | .assigned | .connected | .ready => true
  | _ => false

/-- What the sequencer makes of SPOT_RELEASE (R4, R8, R44). -/
def State.release (n : SpotNo) (s : State) : Verdict :=
  if (s.spot n).state == .vacant then s.refuse .empty
  else if !(s.spot n).state.releasable then s.refuse .busy
  else if manifestCapacity ≤ s.manifest.length then s.refuse .full
  else
    let m := (s.spot n).car.toList ++ s.manifest
    ⟨.ok, [byte1 m.length],
      (s.setManifest m).onSpot n fun r => { r.toVacant with settle := .stopped }⟩

/-- SPOT_RELEASE (R8). -/
def execSpotRelease (tag : Byte) (body : List Byte) (s : State) : Host.Outcome State Fault Refusal :=
  .next (s.serve 0x06 tag body 1 (State.forSpot body State.release))

/-! ## Start, hold, resume, stop -/

/-- What the sequencer makes of SPOT_START (R4, R11). -/
def State.start (body : List Byte) (n : SpotNo) (s : State) : Verdict :=
  if (s.spot n).state != .ready then s.refuse .busy
  else if 1 < num1 body 1 then s.refuse .range
  else if !(s.failing n).isEmpty then s.refuse .notPermitted (permissiveSetBytes (s.failing n))
  else
    ⟨.ok, permissiveSetBytes [],
      (s.onSpot n fun r =>
        { r with
          stripRequested := num1 body 1 == 1
          seqFlags := { r.seqFlags with bypassUsed := r.seqFlags.bypassUsed || r.bypass.nonEmpty } }).enterStartWait n⟩

/-- SPOT_START (R11). -/
def execSpotStart (tag : Byte) (body : List Byte) (s : State) : Host.Outcome State Fault Refusal :=
  .next (s.serve 0x07 tag body 2 (State.forSpot body (State.start body)))

/-- What the sequencer makes of SPOT_HOLD (R4, R20). -/
def State.hold (n : SpotNo) (s : State) : Verdict :=
  if (s.spot n).state.holdable then ⟨.ok, [], s.enterHeld n .operator⟩
  else if (s.spot n).state == .held then ⟨.ok, [], s⟩
  else s.refuse .busy

/-- SPOT_HOLD (R20). -/
def execSpotHold (tag : Byte) (body : List Byte) (s : State) : Host.Outcome State Fault Refusal :=
  .next (s.serve 0x08 tag body 1 (State.forSpot body State.hold))

/-- resume_phase and hold_reason are cleared (R19, R21). -/
def SpotRecord.leaveHeld (r : SpotRecord) : SpotRecord := { r with resumePhase := none, holdReason := none }

/-- What the sequencer makes of SPOT_RESUME (R4, R21, R119). -/
def State.resume (n : SpotNo) (s : State) : Verdict :=
  if (s.spot n).state != .held then s.refuse .busy
  else if s.siding.mode == .shut || s.siding.faultActive then
    s.refuse .notPermitted [byte1 (ofBits [s.siding.mode == .shut, s.siding.faultActive])]
  else
    let s' := s.onSpot n SpotRecord.leaveHeld
    match (s.spot n).resumePhase with
    | some .strip => ⟨.ok, [], s'.resumeStripWait n⟩
    | some .liquid | none => ⟨.ok, [], s'.enterStartWait n⟩

/-- SPOT_RESUME (R21). -/
def execSpotResume (tag : Byte) (body : List Byte) (s : State) : Host.Outcome State Fault Refusal :=
  .next (s.serve 0x09 tag body 1 (State.forSpot body State.resume))

/-- A stop of a liquid phase that waits: READY if windows counted is 0, PURGE with STOPPED otherwise (R19). -/
def State.stopLiquid (s : State) (n : SpotNo) : State :=
  if (s.meter n).windowsCounted == 0 then (s.onSpot n fun r => { r with state := .ready }).giveUp n
  else s.enterPurge n (some .stopped)

/-- What the sequencer makes of SPOT_STOP, by R19's table. -/
def State.stop (n : SpotNo) (s : State) : Verdict :=
  match (s.spot n).state with
  | .startWait => ⟨.ok, [], s.stopLiquid n⟩
  | .transfer => ⟨.ok, [], s.enterPurge n (some .stopped)⟩
  | .stripWait | .strip => ⟨.ok, [], s.enterPurge n none⟩
  | .held =>
    let s' := s.onSpot n SpotRecord.leaveHeld
    match (s.spot n).resumePhase with
    | some .strip => ⟨.ok, [], s'.enterPurge n none⟩
    | some .liquid | none => ⟨.ok, [], s'.stopLiquid n⟩
  | .purge => ⟨.ok, [], s⟩
  | .vacant | .assigned | .connected | .ready | .ticketWait | .complete | .tripped => s.refuse .busy

/-- SPOT_STOP (R19). -/
def execSpotStop (tag : Byte) (body : List Byte) (s : State) : Host.Outcome State Fault Refusal :=
  .next (s.serve 0x0A tag body 1 (State.forSpot body State.stop))

/-! ## Reset of a trip, override -/

/-- The destination of an accepted SPOT_RESET (R117), the trip record cleared (R116); an entry to CONNECTED by it judges
no cause afresh (R109). -/
def State.leaveTripped (s : State) (n : SpotNo) : State :=
  let s' := s.onSpot n fun r => { r with trip := none }
  if s.metered n then
    s'.enterPurge n (if (s.spot n).endReason.isNone then some .interrupted else none)
  else if (s.station n).inputs.arms && (s.station n).inputs.bond then s'.onSpot n SpotRecord.toConnected
  else s'.onSpot n fun r => { r with state := .assigned }

/-- What the sequencer makes of SPOT_RESET (R4, R116, R117). -/
def State.resetTrip (n : SpotNo) (s : State) : Verdict :=
  if (s.spot n).state != .tripped then s.refuse .busy
  else if !(s.causesPresent n).isEmpty then s.refuse .notPermitted (causeSetBytes (s.causesPresent n))
  else
    let s' := s.leaveTripped n
    let cleared := (s.spot n).trip
    ⟨.ok, [byte1 (s'.spot n).state.code, byte1 ((cleared.map fun t => t.firstOut.number).getD 0)] ++
      causeSetBytes ((cleared.map TripRecord.causes).getD []), s'⟩

/-- SPOT_RESET (R116). -/
def execSpotReset (tag : Byte) (body : List Byte) (s : State) : Host.Outcome State Fault Refusal :=
  .next (s.serve 0x0B tag body 1 (State.forSpot body State.resetTrip))

/-- The states SPOT_OVERRIDE is refused in (R10). -/
def SpotState.noOverride : SpotState → Bool
  | .vacant | .ticketWait | .complete => true
  | _ => false

/-- Whether the mask names a position other than 5 and 7, or the value a position above 10 (R10). -/
def overrideOutOfRange (mask value : Nat) : Bool := mask &&& 0xFF5F != 0 || value &&& 0xF800 != 0

/-- The new bypass set: old positions outside the mask, value positions inside it (R10). -/
def Bypass.override (b : Bypass) (mask value : Nat) : Bypass where
  proofCurrent := if bit mask 5 then bit value 5 else b.proofCurrent
  carPressure := if bit mask 7 then bit value 7 else b.carPressure

/-- What the sequencer makes of SPOT_OVERRIDE (R4, R10). -/
def State.overrideBypass (body : List Byte) (n : SpotNo) (s : State) : Verdict :=
  if (s.spot n).state.noOverride then s.refuse .busy
  else if overrideOutOfRange (num2 body 1) (num2 body 3) then s.refuse .range
  else
    let b := (s.spot n).bypass.override (num2 body 1) (num2 body 3)
    ⟨.ok, b.bytes, s.onSpot n fun r => { r with bypass := b }⟩

/-- SPOT_OVERRIDE (R10). -/
def execSpotOverride (tag : Byte) (body : List Byte) (s : State) : Host.Outcome State Fault Refusal :=
  .next (s.serve 0x0C tag body 5 (State.forSpot body (State.overrideBypass body)))

/-! ## Configuration and snapshots -/

/-- The metering record on an accepted SPOT_CONFIG with present yes (R49). -/
def Meter.onConfig (m : Meter) : Meter :=
  { m with
    heldT := Meter.fresh.heldT
    heldDp := Meter.fresh.heldDp
    heldPv := Meter.fresh.heldPv
    heldCarPressure := 0
    windowRead := none
    closingRequest := false }

/-- The station record on an accepted SPOT_CONFIG with present yes (R152). -/
def Station.onPresent (t : Station) : Station :=
  { t with status := .unknown, misses := 0, recovery := .stopped, inputs := Inputs.powerOn, positions := none }

/-- The spot becomes present, or is configured again (R32, R49, R152, R165). -/
def State.makePresent (s : State) (n : SpotNo) : State :=
  let s1 := ((s.onStation n Station.onPresent).onMeter n Meter.onConfig).queueInit n
  s1.setLink { s1.link with mask := allSpots.filter fun k => k == n || s1.link.mask.contains k }

/-- The link scheduler's state when a station becomes ABSENT: its entries withdrawn, its transaction in flight dropped,
and it leaves the attention mask (R152, R153). -/
def Link.dropStation (l : Link) (n : SpotNo) : Link :=
  { l with
    entries := l.entries.filter fun e => e.station != some n
    inFlight := l.inFlight.map fun f => if f.entry.station == some n then { f with mark := .dropped } else f
    mask := l.mask.filter (· != n) }

/-- Both valve command states are set to CLOSED, their travel timers stop, and open_deferred is emptied (R32). -/
def SpotRecord.onAbsent (r : SpotRecord) : SpotRecord :=
  { r with valveL := .closed, valveV := .closed, travelL := .stopped, travelV := .stopped, openDeferred := .none }

/-- The spot becomes not present (R32, R152). -/
def State.makeAbsent (s : State) (n : SpotNo) : State :=
  let withdrawn := s.link.entries.any fun e => e.station == some n && e.txn.holdsPoll
  let s1 := (s.onSpot n SpotRecord.onAbsent).onStation n fun t => { t with status := .absent, recovery := .stopped }
  (s1.setLink (s1.link.dropStation n)).judgePollIf withdrawn

/-- What the sequencer makes of SPOT_CONFIG (R4, R32). -/
def State.configure (body : List Byte) (n : SpotNo) (s : State) : Verdict :=
  if (s.spot n).state != .vacant then s.refuse .busy
  else match readSpotConfig body with
    | none => s.refuse .range
    | some c =>
      let s1 := (s.abortStrokeOn n).onSpot n fun r => { r with config := c }
      ⟨.ok, [], if c.present then s1.makePresent n else s1.makeAbsent n⟩

/-- SPOT_CONFIG (R32). -/
def execSpotConfig (tag : Byte) (body : List Byte) (s : State) : Host.Outcome State Fault Refusal :=
  .next (s.serve 0x0D tag body 24 (State.forSpot body (State.configure body)))

/-- What the sequencers answer to SPOTS_READ (R192). -/
def State.readSpots (body : List Byte) (s : State) : Verdict :=
  let first := num1 body 0
  let last := num1 body 1
  if last < first || 5 < last then s.refuse .range
  else
    ⟨.ok, byte1 (last - first + 1) ::
      (allSpots.filter fun n => first ≤ n.val && n.val ≤ last).flatMap s.snapshot, s⟩

/-- SPOTS_READ (R192). -/
def execSpotsRead (tag : Byte) (body : List Byte) (s : State) : Host.Outcome State Fault Refusal :=
  .next (s.serve 0x0E tag body 2 (State.readSpots body))

end Sys2Proof.Machine
end

