-- ==== Sys2Proof/Machine/SidingRequests.lean ====
section
/-! DEFINITION. The requests of the grade table, the siding unit, the proof scheduler and the ticket unit, STATUS and
RESTART (chapters 4, 6, 7, 9, 10). -/

namespace Sys2Proof.Machine

/-! ## Grades -/

/-- What the grade table makes of GRADE_LOAD (R85, R86, R87). -/
def State.loadGrade (body : List Byte) (s : State) : Verdict :=
  match readGradeLoad body with
  | .error (item, k) => s.refuse .range [byte1 item, byte1 k]
  | .ok (g, r) =>
    if !(s.spotsOfGrade g).isEmpty then s.refuse .busy [spotSetByte (s.spotsOfGrade g)]
    else ⟨.ok, [byte1 g.val] ++ charField 8 r.label ++ [byte1 r.breakpoints.length], s.setGrade g r⟩

/-- GRADE_LOAD (R87); its length is judged against the breakpoint count it carries (R191). -/
def execGradeLoad (tag : Byte) (body : List Byte) (s : State) : Host.Outcome State Fault Refusal :=
  .next (s.serve 0x0F tag body (gradeLoadLength body) (State.loadGrade body))

/-- What the grade table answers to GRADE_READ (R88). -/
def State.readGrade (body : List Byte) (s : State) : Verdict :=
  match gradeOf (num1 body 0) with
  | none => s.refuse .range
  | some g =>
    match s.grade g with
    | none => s.refuse .unknown
    | some r => ⟨.ok, r.bytes g ++ [spotSetByte (s.spotsOfGrade g)], s⟩

/-- GRADE_READ (R88). -/
def execGradeRead (tag : Byte) (body : List Byte) (s : State) : Host.Outcome State Fault Refusal :=
  .next (s.serve 0x10 tag body 1 (State.readGrade body))

/-! ## Siding configuration and mode -/

/-- Every CURRENT record whose elapsed has reached the interval becomes DUE (R129). -/
def State.lapseAll (s : State) (interval : Nat) : State :=
  { s with proof := { s.proof with records := Vector.ofFn fun v : ValveIndex => (s.proofRecord v).lapse interval } }

/-- What the siding unit makes of SIDING_CONFIG (R195, R129). -/
def State.configureSiding (body : List Byte) (s : State) : Verdict :=
  let c := readSidingConfig body
  match c.badPlace with
  | some place => s.refuse .range [byte1 place]
  | none =>
    if !s.workingSpots.isEmpty then s.refuse .busy [spotSetByte s.workingSpots]
    else
      let s' := s.setSiding { s.siding with config := c }
      ⟨.ok, [], if c.proofInterval == s.siding.config.proofInterval then s' else s'.lapseAll c.proofInterval⟩

/-- SIDING_CONFIG (R195). -/
def execSidingConfig (tag : Byte) (body : List Byte) (s : State) : Host.Outcome State Fault Refusal :=
  .next (s.serve 0x11 tag body 9 (State.configureSiding body))

/-- The spots that a change to SHUT holds (R122). -/
def State.holdableSpots (s : State) : List SpotNo := allSpots.filter fun n => (s.spot n).state.holdable

/-- The siding mode changes, and the sequencers and the allocator take the change (R121 to R124). -/
def State.changeMode (s : State) (mode : SidingMode) : State :=
  let s' := s.setSiding { s.siding with mode := mode }
  match mode with
  | .run => s'.examine
  | .quiet => s'
  | .shut => s'.tellAll s.holdableSpots fun t n => t.enterHeld n .sidingShut

/-- What the siding unit makes of SIDING_MODE (R121). -/
def State.setMode (body : List Byte) (s : State) : Verdict :=
  match readSidingMode (num1 body 0) with
  | none => s.refuse .range
  | some mode =>
    if mode == s.siding.mode then ⟨.ok, [byte1 mode.code, byte1 mode.code, 0], s⟩
    else
      let held := if mode == .shut then s.holdableSpots else []
      ⟨.ok, [byte1 mode.code, byte1 s.siding.mode.code, spotSetByte held], s.changeMode mode⟩

/-- SIDING_MODE (R121). -/
def execSidingMode (tag : Byte) (body : List Byte) (s : State) : Host.Outcome State Fault Refusal :=
  .next (s.serve 0x12 tag body 1 (State.setMode body))

/-! ## Proofs -/

/-- The stroke limit of a valve in the configuration of its spot (R133). -/
def State.strokeLimit (s : State) (v : ValveIndex) : Nat :=
  match valveSideOf v with
  | .liquid => (s.spot (valveSpot v)).config.strokeLimitL
  | .vapour => (s.spot (valveSpot v)).config.strokeLimitV

/-- What the proof scheduler makes of PROOF_REQUEST (R142). -/
def State.requestProof (body : List Byte) (s : State) : Verdict :=
  match valveOf (num1 body 0) with
  | none => s.refuse .range
  | some v =>
    let r := s.spot (valveSpot v)
    if !r.config.present then s.refuse .range
    else match s.proof.stroke with
      | some k => s.refuse .busy [byte1 k.valve.val]
      | none =>
        if r.state != .vacant then s.refuse .busy
        else if !(r.valveL == .closed && r.valveV == .closed) then s.refuse .busy
        else if (s.station (valveSpot v)).status != .online then
          s.refuse .notPermitted [byte1 (s.station (valveSpot v)).status.code]
        else if s.siding.stopActive then s.refuse .notPermitted
        else ⟨.ok, byte1 v.val :: leBytes 2 (s.strokeLimit v), s.startStroke v .request⟩

/-- PROOF_REQUEST (R142). -/
def execProofRequest (tag : Byte) (body : List Byte) (s : State) : Host.Outcome State Fault Refusal :=
  .next (s.serve 0x13 tag body 1 (State.requestProof body))

/-- PROOF_READ (R143). -/
def execProofRead (tag : Byte) (body : List Byte) (s : State) : Host.Outcome State Fault Refusal :=
  .next (s.serve 0x14 tag body 0 fun t => ⟨.ok, t.proofResult, t⟩)

/-! ## Tickets -/

/-- What the ticket unit answers to TICKET_READ (R177). -/
def State.readTicket (s : State) : Verdict :=
  match s.tickets.queue with
  | [] => s.refuse .empty
  | t :: _ => ⟨.ok, ticketReadResult t s.tickets, s⟩

/-- TICKET_READ (R177). -/
def execTicketRead (tag : Byte) (body : List Byte) (s : State) : Host.Outcome State Fault Refusal :=
  .next (s.serve 0x15 tag body 0 State.readTicket)

/-- An accepted TICKET_RELEASE of the oldest ticket, `rest` left in the queue, with the admission of R179. -/
def State.releaseOldest (s : State) (oldest : Ticket) (rest : List Ticket) : Verdict :=
  match s.tickets.wait with
  | [] =>
    ⟨.ok, leBytes 4 oldest.number ++ [byte1 rest.length] ++ leBytes 6 0,
      s.setTickets { s.tickets with queue := rest }⟩
  | w :: waiting =>
    ⟨.ok, leBytes 4 oldest.number ++ [byte1 (rest.length + 1), 1, byte1 w.spot.val] ++ leBytes 4 w.ticket.number,
      (s.setTickets { s.tickets with queue := rest ++ [w.ticket], wait := waiting }).enterComplete w.spot⟩

/-- What the ticket unit makes of TICKET_RELEASE (R178). -/
def State.releaseTicket (body : List Byte) (s : State) : Verdict :=
  match s.tickets.queue with
  | [] => s.refuse .empty
  | t :: rest =>
    if num4 body 0 == t.number then s.releaseOldest t rest else s.refuse .unknown (leBytes 4 t.number)

/-- TICKET_RELEASE (R178). -/
def execTicketRelease (tag : Byte) (body : List Byte) (s : State) : Host.Outcome State Fault Refusal :=
  .next (s.serve 0x16 tag body 4 (State.releaseTicket body))

/-! ## STATUS and RESTART -/

/-- STATUS (R193). -/
def execStatus (tag : Byte) (body : List Byte) (s : State) : Host.Outcome State Fault Refusal :=
  .next (s.serve 0x17 tag body 0 fun t => ⟨.ok, t.statusResult, t⟩)

/-- The station record's Restart values (R152). -/
def Station.onRestart (t : Station) (present : Bool) : Station :=
  { t with status := if present then .unknown else .absent, misses := 0, ackOutstanding := none, recovery := .stopped }

/-- The link scheduler's Restart values, before the INITIALIZEs are queued (R165). -/
def Link.onRestart (l : Link) (spots : Vector SpotRecord 6) : Link :=
  { l with
    stations := Vector.ofFn fun n : SpotNo => (l.stations[n.val]).onRestart (spots[n.val]).config.present
    entries := []
    inFlight := l.inFlight.map fun f => { f with mark := .dropped }
    pollHoldOff := .stopped }

/-- The proof scheduler's Restart values, after the abort of a stroke in flight (R127). -/
def ProofUnit.onRestart (p : ProofUnit) (proofStep : Nat) : ProofUnit := { p with stepTimer := .seconds proofStep }

/-- Every block takes its Restart values (R197); a stroke in flight is ABORTED first (R138). -/
def State.restartBlocks (s : State) : State :=
  let t := s.abortStroke false
  { t with
    manifest := []
    spots := Vector.ofFn fun n : SpotNo => SpotRecord.fresh (t.spot n).config
    meters := Vector.replicate 6 Meter.fresh
    comp := Compressor.fresh t.comp.position
    proof := t.proof.onRestart t.siding.config.proofStep
    link := t.link.onRestart t.spots
    siding := { t.siding with mode := .shut } }

/-- The accepted RESTART: the Restart values, an INITIALIZE for every present station in ascending order, and the poll
of R162 (R165, R197). -/
def State.restart (s : State) : State := (allSpots.foldl State.queueInit s.restartBlocks).judgePoll

/-- What the blocks make of RESTART (R196). -/
def State.takeRestart (s : State) : Verdict :=
  if !s.tickets.queue.isEmpty || !s.restartBlockers.isEmpty then
    s.refuse .busy [byte1 s.tickets.queue.length, spotSetByte s.restartBlockers]
  else ⟨.ok, [], s.restart⟩

/-- RESTART (R196). -/
def execRestart (tag : Byte) (body : List Byte) (s : State) : Host.Outcome State Fault Refusal :=
  .next (s.serve 0x18 tag body 0 State.takeRestart)

end Sys2Proof.Machine
end

