-- ==== Sys2Proof/Machine/Timers.lean ====
section
/-! DEFINITION. The expiries of the named timers. An expiry of a timer that does not run is no event and changes nothing
(log 4); of one that runs it is taken whatever time remains (log 5). -/

namespace Sys2Proof.Machine

/-! ## Timers of a spot -/

/-- SETTLE_TIMER_EXPIRY (R7): CONNECTED goes to READY. -/
def execSettleTimerExpiry (n : SpotNo) (s : State) : Host.Outcome State Fault Refusal :=
  if (s.spot n).settle.isRunning then
    .next (s.onSpot n fun r =>
      { r with settle := .stopped, state := if r.state == .connected then .ready else r.state })
  else .next s

/-- The phase of a window that closes in a state (R13). -/
def SpotState.phase (state : SpotState) : Phase := if state == .strip then .strip else .transfer

/-- The metering engine takes a closed window (R50): it is counted; with no read outstanding its read is asked for, which
a LOST station completes at once as a miss (R154); else it is computed at once as an estimated window (R52). -/
def State.takeWindow (s : State) (n : SpotNo) (phase : Phase) (period : Nat) : State × Option WindowReport :=
  let s1 := s.onMeter n fun m => { m with windowsCounted := count32 m.windowsCounted }
  match (s.meter n).windowRead with
  | some _ =>
    let c := s1.computeWindow n ⟨phase, period⟩ 0 true none
    (c.1, some c.2)
  | none =>
    let s2 := s1.onMeter n fun m => { m with windowRead := some ⟨phase, period⟩ }
    if (s.station n).status == .lost then s2.missWindow n
    else (s2.request n (.sampleRead ⟨some phase, false, false⟩), none)

/-- WINDOW_TIMER_EXPIRY (R13, R50). -/
def execWindowTimerExpiry (n : SpotNo) (s : State) : Host.Outcome State Fault Refusal :=
  if (s.spot n).window.isRunning then
    let w := s.siding.config.window
    let c := (s.onSpot n fun r => { r with window := .running w }).takeWindow n (s.spot n).state.phase w
    .next (c.1.takeStationEvent s n (reportCauses (s.spot n).state c.2) c.2)
  else .next s

/-- TRANSFER_LIMIT_EXPIRY (R16): the timer stands at 0, and the spot enters PURGE with TIME_LIMIT. -/
def execTransferLimitExpiry (n : SpotNo) (s : State) : Host.Outcome State Fault Refusal :=
  if (s.spot n).limitRunning then
    .next ((s.onSpot n fun r => { r with limitMs := 0 }).enterPurge n (some .timeLimit))
  else .next s

/-- STRIP_TIMER_EXPIRY (R18). -/
def execStripTimerExpiry (n : SpotNo) (s : State) : Host.Outcome State Fault Refusal :=
  if (s.spot n).strip.isRunning then
    .next ((s.onSpot n fun r =>
      { r with seqFlags := { r.seqFlags with stripped := true, stripTimeout := true } }).enterPurge n none)
  else .next s

/-- PURGE_TIMER_EXPIRY (R23). -/
def execPurgeTimerExpiry (n : SpotNo) (s : State) : Host.Outcome State Fault Refusal :=
  if (s.spot n).purge.isRunning then
    let s' := s.onSpot n fun r => { r with purge := .stopped, purgeExpired := true }
    .next (if (s.spot n).state == .purge && (s.spot n).closingRead == .settled then s'.endPurge n else s')
  else .next s

/-- A valve that is OPENING or CLOSING (R30). -/
def ValveCommand.travelling : ValveCommand → Bool
  | .opening | .closing => true
  | .closed | .opened => false

/-- TRAVEL_TIMER_EXPIRY (R30, R112, R130). -/
def execTravelTimerExpiry (n : SpotNo) (side : ValveSide) (s : State) : Host.Outcome State Fault Refusal :=
  if ((s.spot n).travel side).isRunning then
    let s1 := s.onSpot n (·.setTravel side .stopped)
    if ((s.spot n).valve side).travelling then
      let v := valveIndex n side
      .next ((s1.setProofRecord v (s1.proofRecord v).markTravel).takeCauses n [.valveFault])
    else .next s1
  else .next s

/-! ## Timers of the compressor -/

/-- SPACING_TIMER_EXPIRY (R99). -/
def execSpacingTimerExpiry (s : State) : Host.Outcome State Fault Refusal :=
  if s.comp.spacing.isRunning then .next (s.setComp { s.comp with spacing := .stopped }).examine else .next s

/-- CHANGEOVER_TIMER_EXPIRY (R97). -/
def execChangeoverTimerExpiry (s : State) : Host.Outcome State Fault Refusal :=
  if s.comp.changeover.isRunning then .next s.completeChangeover else .next s

/-- AGE_TIMER_EXPIRY (R89). -/
def execAgeTimerExpiry (s : State) : Host.Outcome State Fault Refusal :=
  if s.comp.age.isRunning then
    .next (s.setComp
      { s.comp with pushGrantAge := s.comp.pushGrantAge.map fun a => min (a + 1) 65534, age := .seconds 1 })
  else .next s

/-! ## Timers of the proof scheduler -/

/-- elapsed rises by one below 65,535 (R128). -/
def ProofRecord.age (p : ProofRecord) : ProofRecord := { p with elapsed := min (p.elapsed + 1) 65535 }

/-- HOUR_TIMER_EXPIRY (R128, R129). -/
def execHourTimerExpiry (s : State) : Host.Outcome State Fault Refusal :=
  if s.proof.hourTimer.isRunning then
    .next { s with proof := { s.proof with
      hourTimer := .seconds 3600
      records := Vector.ofFn fun v : ValveIndex => (s.proofRecord v).age.lapse s.siding.config.proofInterval } }
  else .next s

/-- The cursor after an advance, from 11 back to 0 (R139). -/
def nextValve (v : ValveIndex) : ValveIndex := v + 1

/-- PROOF_STEP_TIMER_EXPIRY (R139, R140). -/
def execProofStepTimerExpiry (s : State) : Host.Outcome State Fault Refusal :=
  if s.proof.stepTimer.isRunning then
    let v := s.proof.cursor
    let s' := { s with proof := { s.proof with
      stepTimer := .seconds s.siding.config.proofStep, cursor := nextValve v } }
    .next (if s.eligible v && s.mayStroke v then s'.startStroke v .cursor else s')
  else .next s

/-- The record after the stroke timer's expiry (R136). -/
def ProofRecord.timeOut (p : ProofRecord) : ProofRecord :=
  { p with state := .failed, lastResult := some .fail, lastTravel := none, faultSource := some .stroke }

/-- STROKE_TIMER_EXPIRY (R136, R137). -/
def execStrokeTimerExpiry (s : State) : Host.Outcome State Fault Refusal :=
  match s.proof.stroke with
  | none => .next s
  | some k =>
    if k.timer.isRunning then
      .next ((s.setProofRecord k.valve (s.proofRecord k.valve).timeOut).endStroke k true)
    else .next s

/-! ## Timers of the link scheduler -/

/-- The hold-off of an entry of a pair runs out. -/
def Link.endHoldOff (l : Link) (n : SpotNo) (kind : LinkKind) : Link :=
  { l with entries := l.entries.map fun e => if e.isPair (some n) kind then { e with holdOff := .stopped } else e }

/-- Whether an entry of a pair is held off. -/
def Link.heldOff (l : Link) (n : SpotNo) (kind : LinkKind) : Bool :=
  l.entries.any fun e => e.isPair (some n) kind && e.holdOff.isRunning

/-- HOLD_OFF_EXPIRY (R150): selection is made again when the link is free. -/
def execHoldOffExpiry (n : SpotNo) (kind : LinkKind) (s : State) : Host.Outcome State Fault Refusal :=
  if s.link.heldOff n kind then .next (s.setLink (s.link.endHoldOff n kind).send) else .next s

/-- POLL_HOLD_OFF_EXPIRY (R162). -/
def execPollHoldOffExpiry (s : State) : Host.Outcome State Fault Refusal :=
  if s.link.pollHoldOff.isRunning then
    .next (s.setLink { s.link with pollHoldOff := .stopped }).judgePoll
  else .next s

/-- RECOVERY_TIMER_EXPIRY (R154): an INITIALIZE joins the SAFETY class. -/
def execRecoveryTimerExpiry (n : SpotNo) (s : State) : Host.Outcome State Fault Refusal :=
  if (s.station n).recovery.isRunning then
    .next ((s.onStation n fun t => { t with recovery := .stopped }).queueInit n)
  else .next s

end Sys2Proof.Machine
end

