-- ==== Sys2Proof/Machine/Dispatch.lean ====
section
/-! DEFINITION. The commands, one arm each: the meaning of each is a direct call. -/

namespace Sys2Proof.Machine

/-- The effect of one command on everything but the queue. -/
def exec (i : Instr) (s : State) : Host.Outcome State Fault Refusal :=
  match i with
  | .powerOnReset pins => Sys2Proof.Machine.execPowerOnReset pins s
  | .lineByteReceived b => Sys2Proof.Machine.execLineByteReceived b s
  | .lineFramingError => Sys2Proof.Machine.execLineFramingError s
  | .gapTimerExpiry => Sys2Proof.Machine.execGapTimerExpiry s
  | .replyLastByteSent => Sys2Proof.Machine.execReplyLastByteSent s
  | .unsupportedRequest code tag body => Sys2Proof.Machine.execUnsupportedRequest code tag body s
  | .carAdd tag body => Sys2Proof.Machine.execCarAdd tag body s
  | .carWithdraw tag body => Sys2Proof.Machine.execCarWithdraw tag body s
  | .carMove tag body => Sys2Proof.Machine.execCarMove tag body s
  | .carList tag body => Sys2Proof.Machine.execCarList tag body s
  | .spotAssign tag body => Sys2Proof.Machine.execSpotAssign tag body s
  | .spotRelease tag body => Sys2Proof.Machine.execSpotRelease tag body s
  | .spotStart tag body => Sys2Proof.Machine.execSpotStart tag body s
  | .spotHold tag body => Sys2Proof.Machine.execSpotHold tag body s
  | .spotResume tag body => Sys2Proof.Machine.execSpotResume tag body s
  | .spotStop tag body => Sys2Proof.Machine.execSpotStop tag body s
  | .spotReset tag body => Sys2Proof.Machine.execSpotReset tag body s
  | .spotOverride tag body => Sys2Proof.Machine.execSpotOverride tag body s
  | .spotConfig tag body => Sys2Proof.Machine.execSpotConfig tag body s
  | .spotsRead tag body => Sys2Proof.Machine.execSpotsRead tag body s
  | .gradeLoad tag body => Sys2Proof.Machine.execGradeLoad tag body s
  | .gradeRead tag body => Sys2Proof.Machine.execGradeRead tag body s
  | .sidingConfig tag body => Sys2Proof.Machine.execSidingConfig tag body s
  | .sidingMode tag body => Sys2Proof.Machine.execSidingMode tag body s
  | .proofRequest tag body => Sys2Proof.Machine.execProofRequest tag body s
  | .proofRead tag body => Sys2Proof.Machine.execProofRead tag body s
  | .ticketRead tag body => Sys2Proof.Machine.execTicketRead tag body s
  | .ticketRelease tag body => Sys2Proof.Machine.execTicketRelease tag body s
  | .status tag body => Sys2Proof.Machine.execStatus tag body s
  | .restart tag body => Sys2Proof.Machine.execRestart tag body s
  | .sidingStopActive => Sys2Proof.Machine.execSidingStopActive s
  | .sidingStopClear => Sys2Proof.Machine.execSidingStopClear s
  | .compressorFaultActive => Sys2Proof.Machine.execCompressorFaultActive s
  | .compressorFaultClear => Sys2Proof.Machine.execCompressorFaultClear s
  | .compressorRunChange level => Sys2Proof.Machine.execCompressorRunChange level s
  | .attentionLineActive level => Sys2Proof.Machine.execAttentionLineActive level s
  | .settleTimerExpiry spot => Sys2Proof.Machine.execSettleTimerExpiry spot s
  | .windowTimerExpiry spot => Sys2Proof.Machine.execWindowTimerExpiry spot s
  | .transferLimitExpiry spot => Sys2Proof.Machine.execTransferLimitExpiry spot s
  | .stripTimerExpiry spot => Sys2Proof.Machine.execStripTimerExpiry spot s
  | .purgeTimerExpiry spot => Sys2Proof.Machine.execPurgeTimerExpiry spot s
  | .travelTimerExpiry spot valve => Sys2Proof.Machine.execTravelTimerExpiry spot valve s
  | .spacingTimerExpiry => Sys2Proof.Machine.execSpacingTimerExpiry s
  | .changeoverTimerExpiry => Sys2Proof.Machine.execChangeoverTimerExpiry s
  | .ageTimerExpiry => Sys2Proof.Machine.execAgeTimerExpiry s
  | .hourTimerExpiry => Sys2Proof.Machine.execHourTimerExpiry s
  | .proofStepTimerExpiry => Sys2Proof.Machine.execProofStepTimerExpiry s
  | .strokeTimerExpiry => Sys2Proof.Machine.execStrokeTimerExpiry s
  | .holdOffExpiry station kind => Sys2Proof.Machine.execHoldOffExpiry station kind s
  | .pollHoldOffExpiry => Sys2Proof.Machine.execPollHoldOffExpiry s
  | .recoveryTimerExpiry station => Sys2Proof.Machine.execRecoveryTimerExpiry station s
  | .transactionSend => Sys2Proof.Machine.execTransactionSend s
  | .spotLinkMiss => Sys2Proof.Machine.execSpotLinkMiss s
  | .initializeReply frame => Sys2Proof.Machine.execInitializeReply frame s
  | .closeReply frame => Sys2Proof.Machine.execCloseReply frame s
  | .valveOpenReply frame => Sys2Proof.Machine.execValveOpenReply frame s
  | .sampleReadReply frame => Sys2Proof.Machine.execSampleReadReply frame s
  | .countAckReply frame => Sys2Proof.Machine.execCountAckReply frame s
  | .strokeReply frame => Sys2Proof.Machine.execStrokeReply frame s
  | .clearReply frame => Sys2Proof.Machine.execClearReply frame s
  | .attentionPollComplete slots => Sys2Proof.Machine.execAttentionPollComplete slots s

end Sys2Proof.Machine
end

