-- ==== Sys2Proof/Machine/Time.lean ====
section
/-! DEFINITION. What the block owes itself when no command waits, and the passing of 1 ms (log 1). -/

namespace Sys2Proof.Machine

/-- An expiry owed by a timer that has run down. -/
def Timer.owes (t : Timer) (c : Instr) : List Instr := if t.isDue then [c] else []

/-- The expiries owed by the timers of a spot. -/
def State.spotOwes (s : State) (n : SpotNo) : List Instr :=
  let r := s.spot n
  r.settle.owes (.settleTimerExpiry n) ++ r.window.owes (.windowTimerExpiry n)
    ++ (if r.limitRunning && r.limitMs == 0 then [.transferLimitExpiry n] else [])
    ++ r.strip.owes (.stripTimerExpiry n) ++ r.purge.owes (.purgeTimerExpiry n)
    ++ r.travelL.owes (.travelTimerExpiry n .liquid) ++ r.travelV.owes (.travelTimerExpiry n .vapour)
    ++ (s.station n).recovery.owes (.recoveryTimerExpiry n)

/-- The expiry owed by the hold-off of an entry. -/
def LinkEntry.owes (e : LinkEntry) : List Instr :=
  match e.station with
  | some n => e.holdOff.owes (.holdOffExpiry n e.txn.kind)
  | none => []

/-- Whether the link is free and an entry can be sent (R150). -/
def Link.canSend (l : Link) : Bool := l.inFlight.isNone && l.select.isSome

/-- Everything the block owes itself at this moment: the request that came in as bytes goes to its owner (R187), a
transaction is sent (R150), and the timers that have run down expire. -/
def State.dueEvents (s : State) : List Instr :=
  s.line.request.toList
    ++ (if s.link.canSend then [.transactionSend] else [])
    ++ s.line.gap.owes .gapTimerExpiry
    ++ allSpots.flatMap s.spotOwes
    ++ s.comp.spacing.owes .spacingTimerExpiry ++ s.comp.changeover.owes .changeoverTimerExpiry
    ++ s.comp.age.owes .ageTimerExpiry
    ++ s.proof.hourTimer.owes .hourTimerExpiry ++ s.proof.stepTimer.owes .proofStepTimerExpiry
    ++ (match s.proof.stroke with
        | some k => k.timer.owes .strokeTimerExpiry
        | none => [])
    ++ s.link.entries.flatMap LinkEntry.owes ++ s.link.pollHoldOff.owes .pollHoldOffExpiry

/-- 1 ms of the timers of a spot; the transfer-limit timer runs in TRANSFER alone (R16). -/
def SpotRecord.tick (r : SpotRecord) : SpotRecord :=
  { r with
    settle := r.settle.tick
    window := r.window.tick
    strip := r.strip.tick
    purge := r.purge.tick
    limitMs := if r.limitRunning then r.limitMs - 1 else r.limitMs
    travelL := r.travelL.tick
    travelV := r.travelV.tick }

/-- 1 ms of the timers of the compressor. -/
def Compressor.tick (c : Compressor) : Compressor :=
  { c with spacing := c.spacing.tick, changeover := c.changeover.tick, age := c.age.tick }

/-- 1 ms of the timers of the proof scheduler. -/
def ProofUnit.tick (p : ProofUnit) : ProofUnit :=
  { p with
    stepTimer := p.stepTimer.tick
    hourTimer := p.hourTimer.tick
    stroke := p.stroke.map fun k => { k with timer := k.timer.tick } }

/-- 1 ms of the recovery timer of a station. -/
def Station.tick (t : Station) : Station := { t with recovery := t.recovery.tick }

/-- 1 ms of the timers of the link scheduler. -/
def Link.tick (l : Link) : Link :=
  { l with
    stations := Vector.ofFn fun n : SpotNo => (l.stations[n.val]).tick
    entries := l.entries.map fun e => { e with holdOff := e.holdOff.tick }
    pollHoldOff := l.pollHoldOff.tick }

/-- 1 ms passes: every running timer counts down, and nothing else changes. -/
def State.tick (s : State) : State :=
  { s with
    line := { s.line with gap := s.line.gap.tick }
    spots := Vector.ofFn fun n : SpotNo => (s.spot n).tick
    comp := s.comp.tick
    proof := s.proof.tick
    link := s.link.tick }

/-- With no command waiting: 1 ms passes when nothing is owed; one event owed is taken; of several, any one (log 7). -/
def State.idle (s : State) : Host.Outcome State Fault Refusal :=
  match s.dueEvents with
  | [] => .next s.tick
  | [c] => exec c s
  | c :: d :: more =>
    exec ((c :: d :: more).getD (Config.freeChoice s.choices % (more.length + 2)) c)
      { s with choices := s.choices + 1 }

end Sys2Proof.Machine
end

