-- ==== Sys2Proof/Safety.lean ====
section
/-! DEFINITION. What the machine keeps true at every step: the invariants the statements are about. -/

namespace Sys2Proof.Machine

/-! ## Capacities (R34, R166, R174, R185) -/

/-- The manifest holds at most 24 records and the ticket queue at most 16 tickets; the wait list is non-empty only while
the queue holds 16; the serial is never 0; a frame being received fits the buffer (R34, R166, R167, R174, R185). -/
structure CapacitiesHold (s : State) : Prop where
  manifest : s.manifest.length ≤ 24
  queue : s.tickets.queue.length ≤ 16
  waitOnlyWhenFull : s.tickets.wait ≠ [] → s.tickets.queue.length = 16
  serialLow : 1 ≤ s.tickets.serial
  serialHigh : s.tickets.serial ≤ 4294967295
  buffer : s.line.buffer.length ≤ 1030

/-! ## The metering records (R48) -/

/-- The ranges of R48 of one metering record, but for Rv (which SPOT_CONFIG can leave above the new K until the next
assignment) and heel_countdown (bounded by the configuration). -/
structure Meter.InRange (m : Meter) : Prop where
  volume : m.volume ≤ 4294967295
  liquid : m.liquid ≤ 4294967295
  vapourReturned : m.vapourReturned ≤ 4294967295
  vapourRecovered : m.vapourRecovered ≤ 4294967295
  rm : m.rm < 100000
  rr : m.rr < 16000000
  rc : m.rc < 16000000
  windows : m.windowsCounted ≤ 4294967295
  estimated : m.estimatedWindows ≤ m.windowsCounted
  /-- The window of an outstanding read is counted and not yet computed (R50), unless the counter stands at its end. -/
  outstanding : m.windowRead.isSome →
    m.estimatedWindows < m.windowsCounted ∨ m.windowsCounted = 4294967295
  heldRun : m.heldRun ≤ 5
  heldTLow : -5000 ≤ m.heldT.value
  heldTHigh : m.heldT.value ≤ 6000
  heldDp : m.heldDp.value ≤ 25000
  heldPvLow : 100 ≤ m.heldPv.value
  heldPvHigh : m.heldPv.value ≤ 2500

/-- Every metering record is in range. -/
def MetersInRange (s : State) : Prop := ∀ n, (s.meter n).InRange

/-! ## The pending list (R148) -/

/-- Two entries of one pair of station and kind. -/
def LinkEntry.samePair (a b : LinkEntry) : Bool := a.station == b.station && a.txn.kind == b.txn.kind

/-- The pending list holds at most one entry for each pair of station and kind (R148). -/
def OnePerPair (s : State) : Prop := s.link.entries.Pairwise fun a b => a.samePair b = false

/-! ## States, shares, queue entries and timers (R1, R16, R89, R90, R91, R174) -/

/-- The compressor record by itself: at most four push holders and each once, at most one queue entry a spot, mode,
target and changeover timer as R89 and R91 state. -/
structure Compressor.Sound (c : Compressor) : Prop where
  fewHolders : c.pushHolders.length ≤ 4
  holdersOnce : c.pushHolders.Nodup
  entriesOnce : (c.queue.map QueueEntry.spot).Nodup
  notBoth : c.pushHolders ≠ [] → c.pullHolder = none
  pushMode : c.mode = .push ↔ c.pushHolders ≠ []
  pullMode : c.mode = .pull ↔ c.pullHolder ≠ none
  target : c.mode = .changeover ↔ c.target ≠ none
  timer : c.mode = .changeover ↔ c.changeover.isRunning = true
  pushPosition : c.mode = .push → c.position = .push
  pullPosition : c.mode = .pull → c.position = .pull

/-- The record of spot `n` fits the compressor record and the ticket unit: a queue entry exactly in START_WAIT and
STRIP_WAIT (R90), a share exactly in TRANSFER and STRIP (R91), the transfer-limit timer running exactly in TRANSFER
(R16), the other timers only in the states of section 1.2, no running purge timer marked expired (R23), a place on the wait list only in TICKET_WAIT (R176). -/
structure SpotRecord.Fits (r : SpotRecord) (n : SpotNo) (c : Compressor) (u : TicketUnit) : Prop where
  pushEntry : ⟨n, .push⟩ ∈ c.queue ↔ r.state = .startWait
  pullEntry : ⟨n, .pull⟩ ∈ c.queue ↔ r.state = .stripWait
  pushShare : n ∈ c.pushHolders ↔ r.state = .transfer
  pullShare : c.pullHolder = some n ↔ r.state = .strip
  limit : r.limitRunning = true ↔ r.state = .transfer
  window : r.window.isRunning = true → r.state.moving = true
  strip : r.strip.isRunning = true → r.state = .strip
  purge : r.purge.isRunning = true → r.state = .purge
  notExpired : r.purge.isRunning = true → r.purgeExpired = false
  settle : r.settle.isRunning = true → r.state = .connected
  waiting : n ∈ u.wait.map WaitEntry.spot → r.state = .ticketWait

/-- The compressor record is sound, every spot fits it, and no spot stands twice on the ticket-wait list. -/
structure SharesFollowStates (s : State) : Prop where
  comp : s.comp.Sound
  spots : ∀ n, (s.spot n).Fits n s.comp s.tickets
  waitOnce : (s.tickets.wait.map WaitEntry.spot).Nodup

/-! ## Trip records (R107, R113, R115, R191) -/

/-- The cause set of a spot's trip record, where it has one, stands in number order, each cause once. -/
def SpotRecord.TripInOrder (r : SpotRecord) : Prop :=
  ∀ t, r.trip = some t → t.causes = TripCause.all.filter fun c => c ∈ t.causes

/-- The cause set of every trip record stands in number order. -/
def TripsInOrder (s : State) : Prop := ∀ n, (s.spot n).TripInOrder

/-! ## What a frame says -/

/-- Two states of the link scheduler differ in the pending list and in the transaction in flight alone. -/
structure LinkList (l m : Link) : Prop where
  stations : m.stations = l.stations
  mask : m.mask = l.mask
  pollHoldOff : m.pollHoldOff = l.pollHoldOff
  attentionLine : m.attentionLine = l.attentionLine

/-- Two states of the link scheduler differ in the entries and the transaction of some stations alone: every other entry
stays, in its order, and the transaction in flight stays, at most marked withdrawn where it is to one of them (R149). -/
structure LinkOf (l m : Link) (touched : List SpotNo) : Prop extends LinkList l m where
  entries : (m.entries.filter fun e => e.station.all fun n => n ∉ touched) =
    l.entries.filter fun e => e.station.all fun n => n ∉ touched
  flight : m.inFlight = l.inFlight ∨ ∃ f n, l.inFlight = some f ∧ f.entry.station = some n ∧ n ∈ touched
    ∧ m.inFlight = some ⟨f.entry, .withdrawn⟩

/-- Only spots, meters, the compressor, and the list and the flight of the link differ. -/
structure Course (s t : State) : Prop where
  pending : t.pending = s.pending
  line : t.line = s.line
  manifest : t.manifest = s.manifest
  grades : t.grades = s.grades
  proof : t.proof = s.proof
  tickets : t.tickets = s.tickets
  siding : t.siding = s.siding
  choices : t.choices = s.choices
  link : LinkList s.link t.link

/-- Only spots, meters, the compressor, the link, the proofs, the tickets and the free choices differ. -/
structure Event (s t : State) : Prop where
  pending : t.pending = s.pending
  line : t.line = s.line
  manifest : t.manifest = s.manifest
  grades : t.grades = s.grades
  siding : t.siding = s.siding

/-- The compressor record after some spots have given up their shares and queue entries: with no holder left, where one
of them held a share, the mode is IDLE (R99, R100). -/
def Compressor.released (c : Compressor) (out : List SpotNo) : Compressor :=
  { c with
    pushHolders := c.pushHolders.filter fun n => n ∉ out
    pullHolder := c.pullHolder.filter fun n => n ∉ out
    queue := c.queue.filter fun e => e.spot ∉ out
    mode := if (∃ n ∈ out, n ∈ c.pushHolders ∨ c.pullHolder = some n)
        ∧ (∀ n, n ∈ c.pushHolders ∨ c.pullHolder = some n → n ∈ out) then .idle else c.mode }

/-- The machine after spot `n` has given up its share and its queue entry: the queue head is examined where a share was
released or the head left (R92, R99, R100). -/
def State.afterRelease (s : State) (n : SpotNo) : State :=
  let v : State := { s with comp := s.comp.released [n] }
  if n ∈ s.comp.pushHolders ∨ s.comp.pullHolder = some n ∨ s.comp.queue.head?.map QueueEntry.spot = some n then v.examine
  else v

/-- What a spot's own course leaves of the rest (R1, R92, R99, R100): it gives up its share and its queue entry, and the
compressor, every other spot and the link are as that release leaves them, but for the spot's own transactions; blocks
outside the course, and every other spot that has no queue entry, are as they were. -/
structure CourseOf (s u : State) (n : SpotNo) : Prop where
  course : Course s u
  comp : u.comp = (s.afterRelease n).comp
  release : ∀ k, k ≠ n → u.spot k = (s.afterRelease n).spot k ∧ u.meter k = (s.afterRelease n).meter k
  link : LinkOf (s.afterRelease n).link u.link [n]
  others : ∀ k, k ≠ n → (∀ e ∈ s.comp.queue, e.spot ≠ k) → u.spot k = s.spot k ∧ u.meter k = s.meter k

/-- The records of every spot but one are as they were. -/
def KeepsOthers (s u : State) (n : SpotNo) : Prop :=
  ∀ k, k ≠ n → u.spot k = s.spot k ∧ u.meter k = s.meter k ∧ u.station k = s.station k

/-! ## What the entries to a state leave (R20, R22, R26, R28, R90, R91) -/

/-- The command state of a valve that is commanded closed (R28). -/
def ValveCommand.commandedClosed : ValveCommand → ValveCommand
  | .opening | .opened | .closing => .closing
  | .closed => .closed

/-- The travel timer of a valve in a command state that is commanded closed: loaded with travel_limit where the valve
becomes CLOSING, else as it was (R28). -/
def ValveCommand.closeTravel (c : ValveCommand) (limit : Nat) (t : Timer) : Timer :=
  match c with
  | .opening | .opened => .running (1000 * limit)
  | .closed | .closing => t

/-- Both valves of spot `n` have been commanded closed (R28): the command states, the travel timers, open_deferred; and
where a valve became CLOSING, the CLOSE is asked for and no VALVE_OPEN of the station is pending (R149). -/
structure ClosesValves (s u : State) (n : SpotNo) : Prop where
  valveL : (u.spot n).valveL = (s.spot n).valveL.commandedClosed
  valveV : (u.spot n).valveV = (s.spot n).valveV.commandedClosed
  travelL : (u.spot n).travelL = (s.spot n).valveL.closeTravel (s.spot n).config.travelLimit (s.spot n).travelL
  travelV : (u.spot n).travelV = (s.spot n).valveV.closeTravel (s.spot n).config.travelLimit (s.spot n).travelV
  deferred : (u.spot n).openDeferred = ⟨false, false⟩
  asked : ((s.spot n).valveL = .opening ∨ (s.spot n).valveL = .opened ∨ (s.spot n).valveV = .opening
      ∨ (s.spot n).valveV = .opened) → (s.station n).status.takesRequests = true →
    u.link.hasPending (some n) .close = true ∧ u.link.hasPending (some n) .valveOpen = false

/-- The valves of a set at spot `n` have been commanded open (R27): a CLOSED one is OPENING with its travel timer loaded,
a CLOSING one joins open_deferred, any other is as it was; and where one became OPENING, a VALVE_OPEN is asked for. -/
structure OpensValves (s u : State) (n : SpotNo) (set : ValveSet) : Prop where
  valveL : (u.spot n).valveL = if set.l ∧ (s.spot n).valveL = .closed then .opening else (s.spot n).valveL
  valveV : (u.spot n).valveV = if set.v ∧ (s.spot n).valveV = .closed then .opening else (s.spot n).valveV
  travelL : (u.spot n).travelL =
    if set.l ∧ (s.spot n).valveL = .closed then .running (1000 * (s.spot n).config.travelLimit)
    else (s.spot n).travelL
  travelV : (u.spot n).travelV =
    if set.v ∧ (s.spot n).valveV = .closed then .running (1000 * (s.spot n).config.travelLimit)
    else (s.spot n).travelV
  deferred : (u.spot n).openDeferred =
    ⟨(s.spot n).openDeferred.l || (set.l && (s.spot n).valveL == .closing),
     (s.spot n).openDeferred.v || (set.v && (s.spot n).valveV == .closing)⟩
  asked : ((set.l = true ∧ (s.spot n).valveL = .closed) ∨ (set.v = true ∧ (s.spot n).valveV = .closed)) →
    (s.station n).status.takesRequests = true → u.link.hasPending (some n) .valveOpen = true

/-- The spot has neither a share nor a queue entry (R90, R91). -/
structure HoldsNothing (c : Compressor) (n : SpotNo) : Prop where
  noPush : n ∉ c.pushHolders
  noPull : c.pullHolder ≠ some n
  noEntry : ∀ e ∈ c.queue, e.spot ≠ n

/-- The window and strip timers stopped, the transfer-limit timer paused (R20, R22, R26). -/
structure StopsMoving (r : SpotRecord) : Prop where
  window : r.window = .stopped
  strip : r.strip = .stopped
  limit : r.limitRunning = false

/-- The fields of a spot record that every transition of one car leaves (R1, R20, R22, R26). -/
structure KeepsCar (r r' : SpotRecord) : Prop where
  car : r'.car = r.car
  stripRequested : r'.stripRequested = r.stripRequested
  seqFlags : r'.seqFlags = r.seqFlags
  bypass : r'.bypass = r.bypass
  config : r'.config = r.config

/-- Spot `n` has entered PURGE for a reason (R22): a reason named replaces end_reason, and the closing read is asked
for, or abandoned at once where the station is LOST (R154). -/
structure EntersPurge (s u : State) (n : SpotNo) (reason : Option EndReason) : Prop where
  state : (u.spot n).state = .purge
  endReason : (u.spot n).endReason = reason.or (s.spot n).endReason
  purge : (u.spot n).purge = .running (1000 * (s.spot n).config.purgeTime)
  expired : (u.spot n).purgeExpired = false
  stops : StopsMoving (u.spot n)
  valves : ClosesValves s u n
  nothing : HoldsNothing u.comp n
  car : (u.spot n).car = (s.spot n).car
  bypass : (u.spot n).bypass = (s.spot n).bypass
  config : (u.spot n).config = (s.spot n).config
  stripRequested : (u.spot n).stripRequested = (s.spot n).stripRequested
  seqFlags : (u.spot n).seqFlags = (s.spot n).seqFlags
  limit : (u.spot n).limitMs = (s.spot n).limitMs
  closing : ((s.meter n).closingRequest = true ∨ (s.station n).status ≠ .lost) →
    (u.spot n).closingRead = .outstanding ∧ u.meter n = { s.meter n with closingRequest := true }
  closingAsked : (s.meter n).closingRequest = false → (s.station n).status.takesRequests = true →
    ∃ e ∈ u.link.entries, e.station = some n ∧ ∃ m, e.txn = .sampleRead m ∧ m.closing = true
  abandoned : (s.meter n).closingRequest = false → (s.station n).status = .lost →
    (u.spot n).closingRead = .settled
      ∧ u.meter n = { s.meter n with flags := { (s.meter n).flags with pulsesUnread := true } }
  frame : CourseOf s u n

/-- Spot `n` has become HELD for a reason (R20). -/
structure BecomesHeld (s u : State) (n : SpotNo) (reason : HoldReason) : Prop where
  state : (u.spot n).state = .held
  phase : (u.spot n).resumePhase =
    if (s.spot n).state = .startWait ∨ (s.spot n).state = .transfer then some .liquid else some .strip
  holdReason : (u.spot n).holdReason = some reason
  endReason : (u.spot n).endReason = (s.spot n).endReason
  limit : (u.spot n).limitMs = (s.spot n).limitMs
  stops : StopsMoving (u.spot n)
  valves : ClosesValves s u n
  nothing : HoldsNothing u.comp n
  car : KeepsCar (s.spot n) (u.spot n)
  meter : u.meter n = s.meter n

/-- Spot `n` has entered HELD on its own, and little else changed (R20). -/
structure EntersHeld (s u : State) (n : SpotNo) (reason : HoldReason) : Prop extends BecomesHeld s u n reason where
  frame : CourseOf s u n

/-- Spot `n` has entered TRIPPED with a first-out cause and a cause set (R26, R113). -/
structure EntersTripped (s u : State) (n : SpotNo) (t : TripRecord) : Prop where
  state : (u.spot n).state = .tripped
  trip : (u.spot n).trip = some t
  phase : (u.spot n).resumePhase = none
  holdReason : (u.spot n).holdReason = none
  endReason : (u.spot n).endReason = (s.spot n).endReason
  limit : (u.spot n).limitMs = (s.spot n).limitMs
  settle : (u.spot n).settle = .stopped
  purge : (u.spot n).purge = .stopped
  stops : StopsMoving (u.spot n)
  valves : ClosesValves s u n
  nothing : HoldsNothing u.comp n
  car : KeepsCar (s.spot n) (u.spot n)
  meter : u.meter n = s.meter n
  frame : CourseOf s u n

/-! ## What an event of a station leaves (R6, R14, R15, R18, R25, R108, R109, R113, R115) -/

/-- The sequencer of spot `n` has taken an event that brought causes, in number order: an armed spot trips on the first
of them, a TRIPPED one adds them; ASSIGNED goes on when ARMS and BOND are true, COMPLETE when ARMS is false. -/
structure SequencerTakes (s u : State) (n : SpotNo) (brought : List TripCause) : Prop where
  trips : (s.spot n).state.armed = true → ∀ first rest, brought = first :: rest →
    EntersTripped s u n
      ⟨first, TripCause.all.filter fun c => c ∈ brought ∨ (c.isLevel = true ∧ s.causePresent n c = true)⟩
  joins : (s.spot n).state = .tripped →
    u = s.setSpot n { s.spot n with
      trip := (s.spot n).trip.map fun t => ⟨t.firstOut, TripCause.all.filter fun c => c ∈ t.causes ∨ c ∈ brought⟩ }
  connects : (s.spot n).state = .assigned → ((s.station n).inputs.arms && (s.station n).inputs.bond) = true →
    let connected := s.setSpot n
      { s.spot n with state := .connected, settle := .running (1000 * (s.spot n).config.settleTime) }
    let causes := TripCause.all.filter fun c => c.isLevel = true ∧ s.causePresent n c = true
    (causes = [] → u = connected)
      ∧ ∀ first rest, causes = first :: rest → EntersTripped connected u n ⟨first, causes⟩
  departs : (s.spot n).state = .complete → (s.station n).inputs.arms = false →
    u = s.setSpot n (s.spot n).toVacant
  still : (s.spot n).state ≠ .tripped → ((s.spot n).state.armed = true → brought = []) →
    ((s.spot n).state = .assigned → ((s.station n).inputs.arms && (s.station n).inputs.bond) = false) →
    ((s.spot n).state = .complete → (s.station n).inputs.arms = true) → u = s

/-- The sequencer of spot `n` has acted on a window's report (R14, R15, R18): only in the state of the window's phase. -/
structure OutcomeTaken (s u : State) (n : SpotNo) (report : WindowReport) : Prop where
  target : (s.spot n).state = .transfer → report.phase = .transfer → report.outcome = .target →
    EntersPurge s u n (some .target)
  emptied : (s.spot n).state = .transfer → report.phase = .transfer → report.outcome = .empty →
    (s.spot n).stripRequested = false → EntersPurge s u n (some .empty)
  goesOn : (s.spot n).state = .transfer → report.phase = .transfer → report.outcome = .empty →
    (s.spot n).stripRequested = true → ∃ v,
      (v.spot n).state = .stripWait ∧ (v.spot n).endReason = some .empty ∧ StopsMoving (v.spot n)
      ∧ KeepsCar (s.spot n) (v.spot n) ∧ ClosesValves s v n ∧ HoldsNothing v.comp n ∧ CourseOf s v n
      ∧ v.meter n = s.meter n
      ∧ u = State.examine { v with comp := { v.comp with queue := v.comp.queue ++ [⟨n, .pull⟩] } }
  stripped : (s.spot n).state = .strip → report.phase = .strip → report.outcome = .stripEnd →
    EntersPurge (s.setSpot n { s.spot n with seqFlags := { (s.spot n).seqFlags with stripped := true } }) u n none
  still : ¬((s.spot n).state = .transfer ∧ report.phase = .transfer
      ∧ (report.outcome = .target ∨ report.outcome = .empty)) →
    ¬((s.spot n).state = .strip ∧ report.phase = .strip ∧ report.outcome = .stripEnd) → u = s

/-- One valve after the closes of its spot completed, `drive` saying whether it is driven open at once (R27, R29). -/
def ValveCommand.afterCloses (c : ValveCommand) (drive : Bool) : ValveCommand :=
  if drive then .opening else if c = .closing then .closed else c

/-- Its travel timer then (R27, R29). -/
def ValveCommand.travelAfterCloses (c : ValveCommand) (drive : Bool) (limit : Nat) (t : Timer) : Timer :=
  if drive then .running (1000 * limit) else if c = .closing then .stopped else t

/-- CLOSING valves of spot `n` have become CLOSED, and the valves of a set are driven open (R29, R27). -/
structure FinishesCloses (s u : State) (n : SpotNo) (drive : ValveSet) : Prop where
  spot : u.spot n = { s.spot n with
    valveL := (s.spot n).valveL.afterCloses drive.l
    valveV := (s.spot n).valveV.afterCloses drive.v
    travelL := (s.spot n).valveL.travelAfterCloses drive.l (s.spot n).config.travelLimit (s.spot n).travelL
    travelV := (s.spot n).valveV.travelAfterCloses drive.v (s.spot n).config.travelLimit (s.spot n).travelV
    openDeferred := ⟨false, false⟩ }
  asked : (drive.l || drive.v) = true → (s.station n).status.takesRequests = true →
    u.link.hasPending (some n) .valveOpen = true
  notAsked : (drive.l || drive.v) = false → u.link = s.link
  link : LinkOf s.link u.link [n]
  frame : Course s u
  comp : u.comp = s.comp
  meters : u.meters = s.meters
  others : ∀ k, k ≠ n → u.spot k = s.spot k

/-- A transaction to station `n` is in flight that a reply is taken for: not one that was dropped (R144, R153). -/
structure Awaits (s : State) (f : InFlight) (n : SpotNo) (txn : Txn) : Prop where
  flight : s.link.inFlight = some f
  station : f.entry.station = some n
  txn : f.entry.txn = txn
  notDropped : f.mark ≠ .dropped

/-- The link has become free, and the station record is a new one (R144, R153). -/
def State.hears (s : State) (n : SpotNo) (t : Station) : State :=
  ({ s with link := { s.link with inFlight := none } } : State).setStation n t

/-- The transaction in flight joins its class again with a hold-off, unless it was withdrawn (R151). -/
def State.joinsAgain (b : State) (f : InFlight) (n : SpotNo) (txn : Txn) (holdOff : Timer) : State :=
  if f.mark = .live then b.join ⟨some n, txn, holdOff⟩ else b

/-- The level causes that are true in `b` and were false in `s`, in number order (R108). -/
def causesRisen (s b : State) (n : SpotNo) : List TripCause :=
  TripCause.all.filter fun c => b.levelCondition n c && !s.levelCondition n c

/-! ## The selection on a free link (R146, R150) -/

/-- The rank of an entry's class: SAFETY, ATTENTION, SAMPLE, ACTION (R146). -/
def LinkEntry.rank (e : LinkEntry) : Nat :=
  match e.txn with
  | .initStation _ | .close => 0
  | .attentionPoll => 1
  | .sampleRead _ | .countAck _ _ => 2
  | .valveOpen _ | .stroke _ | .clear => 3

/-- An entry that selection passes over while the link is free: held off, or behind an INITIALIZE of its station, or a
read behind an acknowledgement outstanding, or a VALVE_OPEN behind a CLOSE (R150). -/
def Link.passes (l : Link) (e : LinkEntry) : Prop :=
  e.holdOff ≠ .stopped ∨ ∃ n, e.station = some n
    ∧ ((e.txn.kind ≠ .initStation ∧ l.hasPending (some n) .initStation = true)
      ∨ (e.txn.kind = .sampleRead ∧ (l.stations[n.val]).ackOutstanding ≠ none)
      ∨ (e.txn.kind = .valveOpen ∧ l.hasPending (some n) .close = true))

/-- The entry selected, and what stands before and behind it in the list: the first of its class that is not passed
over, with every entry of an earlier class passed over (R150). -/
structure Link.Selects (l : Link) (before : List LinkEntry) (e : LinkEntry) (after : List LinkEntry) : Prop where
  place : l.entries = before ++ e :: after
  chosen : ¬l.passes e
  before : ∀ d ∈ before, l.passes d ∨ e.rank < d.rank
  after : ∀ d ∈ after, l.passes d ∨ e.rank ≤ d.rank

/-! ## Strokes (R31, R133, R137) -/

/-- The limit of a stroke on a valve (R133). -/
def strokeLimitOf (s : State) (v : ValveIndex) : Nat :=
  let c := (s.spot (valveSpot v)).config
  if v.val % 2 = 0 then c.strokeLimitL else c.strokeLimitV

/-- What a stroke leaves alone, but for its spot's command state, its record and the link. -/
structure StrokeFrame (s u : State) (n : SpotNo) : Prop where
  event : Event s u
  comp : u.comp = s.comp
  tickets : u.tickets = s.tickets
  meters : u.meters = s.meters
  choices : u.choices = s.choices
  link : LinkOf s.link u.link [n]
  others : ∀ k, k ≠ n → u.spot k = s.spot k

/-- A stroke has started on a valve (R31, R133). -/
structure StartsStroke (s u : State) (v : ValveIndex) (origin : StrokeOrigin) : Prop where
  proof : u.proof = { s.proof with
    stroke := some ⟨v, origin, strokeLimitOf s v, .running (2 * strokeLimitOf s v)⟩ }
  valve : u.spot (valveSpot v) = (s.spot (valveSpot v)).setValve (valveSideOf v) .opening
  asked : (s.station (valveSpot v)).status.takesRequests = true →
    u.link.hasPending (some (valveSpot v)) .stroke = true
  frame : StrokeFrame s u (valveSpot v)

/-- The stroke in flight has ended with a record for its valve (R137): the record written, the stroke cleared, the
command state CLOSED, no STROKE of the station left pending and one in flight marked withdrawn (R151); and a CLOSE asked
for where `drive` says so. -/
structure EndsStroke (s u : State) (k : Stroke) (result : ProofRecord) (drive : Prop) : Prop where
  record : u.proofRecord k.valve = result
  records : ∀ v, v ≠ k.valve → u.proofRecord v = s.proofRecord v
  proof : u.proof = { s.proof with stroke := none, records := u.proof.records }
  valve : u.spot (valveSpot k.valve) = (s.spot (valveSpot k.valve)).setValve (valveSideOf k.valve) .closed
  withdrawn : u.link.hasPending (some (valveSpot k.valve)) .stroke = false
  flight : ∀ f, s.link.inFlight = some f → f.entry.station = some (valveSpot k.valve) → f.entry.txn.kind = .stroke →
    f.mark = .live → u.link.inFlight = some ⟨f.entry, .withdrawn⟩
  notDriven : ¬drive → u.link.entries = s.link.entries.filter fun e =>
    !(e.station == some (valveSpot k.valve) && e.txn.kind == .stroke)
  driven : drive → (s.station (valveSpot k.valve)).status.takesRequests = true →
    u.link.hasPending (some (valveSpot k.valve)) .close = true
  frame : StrokeFrame s u (valveSpot k.valve)

/-! ## What the SU-6 sends, as the spec's tables lay it out (R191, R193, R199 to R203)

Written from the tables alone, apart from the layouts of `Machine/Layouts.lean`: the statements compare the two. -/

namespace Layout

/-- A number as `width` bytes, least significant first. -/
def num (width v : Nat) : List Byte := (List.range width).map fun i => BitVec.ofNat 8 (v / 256 ^ i)

/-- A signed number as `width` bytes in two's complement (R191). -/
def signed (width : Nat) (v : Int) : List Byte := num width (v % (256 ^ width : Nat)).toNat

/-- Bits at their places, each set where its condition holds. -/
def bits (l : List (Bool × Nat)) : Nat := (l.map fun x => if x.1 then 2 ^ x.2 else 0).sum

/-- The code of a value: its place in a list that starts with code 0 (R202). -/
def code {α : Type} [DecidableEq α] (codes : List α) (v : α) : List Byte := num 1 (codes.idxOf v)

/-- A set of spots: bit n for spot n (R191). -/
def spots (set : List SpotNo) : List Byte := num 1 (bits (allSpots.map fun n => (decide (n ∈ set), n.val)))

/-- A set of trip causes: bit k − 1 for cause number k (R191). -/
def causes (set : List TripCause) : List Byte :=
  num 2 (bits (TripCause.all.map fun c => (decide (c ∈ set), c.number - 1)))

/-- A set of permissives: bit p for position p (R191). -/
def permissives (set : List Permissive) : List Byte :=
  num 2 (bits (Permissive.all.map fun p => (decide (p ∈ set), p.position)))

/-- A character field: the length, the characters, and 0 beyond them (R191, R199). -/
def chars (width : Nat) (l : List Byte) : List Byte :=
  num 1 l.length ++ l ++ List.replicate (width - l.length) 0

/-- Spot states in the order of their codes (R202). -/
def states : List SpotState :=
  [.vacant, .assigned, .connected, .ready, .startWait, .transfer, .stripWait, .strip, .held, .purge, .ticketWait,
   .complete, .tripped]

/-- Station statuses in the order of their codes (R202). -/
def statuses : List StationStatus := [.absent, .unknown, .online, .localOp, .lost]

/-- end_reason in the order of its codes, 0 when absent (R200, R202). -/
def endReasons : List (Option EndReason) :=
  [none, some .empty, some .target, some .timeLimit, some .stopped, some .interrupted]

/-- Command states in the order of their codes (R200). -/
def commands : List ValveCommand := [.closed, .opening, .opened, .closing]

/-- Reported positions in the order of their codes (R200). -/
def positions : List ValvePosition := [.closed, .opened, .travel]

/-- Reversing positions, and kinds of queue entries, in the order of their codes (R193, R202). -/
def duties : List Duty := [.push, .pull]

/-- The car record of 24 bytes (R199). -/
def car (c : CarRecord) : List Byte :=
  chars 12 c.carId ++ num 1 c.grade.val
    ++ num 1 (bits [(c.declaredMass.isSome, 0), (c.targetMass.isSome, 1), (c.spotSet.isSome, 2)])
    ++ num 4 (c.declaredMass.getD 0) ++ num 4 (c.targetMass.getD 0) ++ spots (c.spotSet.getD [])

/-- The snapshot record of 46 bytes (R200). -/
def snapshot (s : State) (n : SpotNo) : List Byte :=
  let r := s.spot n
  let t := s.station n
  num 1 n.val
    ++ num 1 (bits [(r.config.present, 0), (r.car.isSome, 1), (r.stripRequested, 2), (t.positions.isSome, 3)])
    ++ code states r.state
    ++ (match r.car with
        | some c => chars 12 c.carId ++ num 1 c.grade.val
        | none => List.replicate 13 0 ++ [0xFF#8])
    ++ code endReasons r.endReason
    ++ code [none, some ResumePhase.liquid, some .strip] r.resumePhase
    ++ code [none, some HoldReason.operator, some .sidingShut, some .compressor] r.holdReason
    ++ (match r.trip with
        | some t => num 1 t.firstOut.number ++ causes t.causes
        | none => [0, 0, 0])
    ++ permissives (Permissive.all.filter fun p => s.permissive n p)
    ++ num 2 (bits [(r.bypass.proofCurrent, 5), (r.bypass.carPressure, 7)])
    ++ num 1 (commands.idxOf r.valveL + 4 * commands.idxOf r.valveV)
    ++ num 1 ((t.positions.map fun p => positions.idxOf p.l + 4 * positions.idxOf p.v).getD 0)
    ++ code statuses t.status
    ++ num 4 (s.meter n).windowsCounted ++ num 4 (s.meter n).estimatedWindows
    ++ signed 8 (((s.meter n).liquid : Int) - (s.meter n).vapourReturned + (s.meter n).vapourRecovered)

/-- The ticket record of 61 bytes (R201), its flags in the order of R173's table. -/
def ticket (t : Ticket) : List Byte :=
  let f := t.flags.condition
  let q := t.flags.sequence
  num 4 t.number ++ chars 12 t.carId ++ num 1 t.grade.val ++ num 1 t.spot.val
    ++ num 4 t.volume ++ num 4 t.liquid ++ num 4 t.vapourReturned ++ num 4 t.vapourRecovered ++ signed 4 t.netKg
    ++ num 4 t.windows ++ num 4 t.estimatedWindows ++ num 2 t.transferTime ++ code endReasons (some t.endReason)
    ++ num 2 (bits [(f.tempClamped, 0), (f.dpClamped, 1), (f.pvClamped, 2), (f.estimated, 3), (f.pulseOverrun, 4),
        (f.pulsesUnread, 5), (f.accumSat, 6), (q.bypassUsed, 7), (q.stripped, 8), (q.stripTimeout, 9),
        (t.flags.negativeNet, 10)])
    ++ (match t.declared with
        | some d => num 1 1 ++ num 4 d.declaredKg ++ signed 4 d.differenceKg
        | none => List.replicate 9 0)

/-- The fields of the GRADE_LOAD body of a loaded grade (R190, R203). -/
def grade (g : GradeNo) (r : Grade) : List Byte :=
  num 1 g.val ++ chars 8 r.label ++ code [RoundingMode.nearestEven, .towardZero, .up, .down] r.rounding
    ++ num 2 r.heelFlow ++ num 2 r.stripEnd ++ num 2 r.maxPressure ++ num 1 r.breakpoints.length
    ++ r.breakpoints.flatMap fun p => signed 2 p.temp ++ num 2 p.density

/-- The remaining whole seconds of a timer, or the value given for a stopped one (R193, R203). -/
def seconds (stopped : Nat) : Timer → List Byte
  | .running ms => num 2 (ms / 1000)
  | .stopped => num 2 stopped

/-- The result of STATUS, 54 bytes (R193, R104). -/
def status (s : State) : List Byte :=
  let c := s.comp
  let d := s.siding.config
  let pull : Bool := c.mode = .pull ∨ (c.mode = .idle ∧ c.position = .pull)
    ∨ (c.mode = .changeover ∧ c.target.getD c.position = .pull)
  code [SidingMode.run, .quiet, .shut] s.siding.mode
    ++ num 1 (bits [(s.siding.stopActive, 0), (s.siding.faultActive, 1), (s.siding.runInput, 2),
        (s.link.attentionLine, 3)])
    ++ num 1 (bits [(decide (c.mode = .push ∨ c.mode = .pull), 0), (pull, 1)])
    ++ num 2 d.window ++ num 1 d.startSpacing ++ num 1 d.changeoverTime ++ num 2 d.proofInterval ++ num 1 d.leadTime
    ++ num 2 d.proofStep
    ++ code [LineRate.baud9600, .baud19200, .baud38400, .baud115200] s.line.rate
    ++ code [CompressorMode.idle, .push, .pull, .changeover] c.mode ++ code duties c.position
    ++ (match c.target with
        | some t => code duties t
        | none => [0xFF#8])
    ++ spots c.pushHolders
    ++ (match c.pullHolder with
        | some n => num 1 n.val
        | none => [0xFF#8])
    ++ seconds 0xFFFF c.spacing ++ seconds 0xFFFF c.changeover ++ num 2 (c.pushGrantAge.getD 0xFFFF)
    ++ num 1 c.queue.length
    ++ ((List.range 6).flatMap fun i => match c.queue[i]? with
        | some e => num 1 e.spot.val ++ code duties e.kind
        | none => [0xFF#8, 0xFF#8])
    ++ num 4 s.tickets.serial ++ num 1 s.tickets.wait.length
    ++ (allSpots.flatMap fun n => code states (s.spot n).state)
    ++ allSpots.flatMap fun n => code statuses (s.station n).status

/-- The result of PROOF_READ, 108 bytes (R203). -/
def proofs (s : State) : List Byte :=
  (allValves.flatMap fun v =>
    let p := s.proofRecord v
    code [ProofState.current, .due, .failed] p.state ++ num 2 p.elapsed
      ++ code [none, some StrokeResult.pass, some .slow, some .fail, some .aborted] p.lastResult
      ++ (match p.lastTravel with
          | some t => num 1 1 ++ num 2 t
          | none => [0, 0, 0])
      ++ code [none, some FaultSource.stroke, some .travel] p.faultSource)
    ++ num 1 s.proof.cursor.val ++ seconds 0 s.proof.stepTimer ++ seconds 0 s.proof.hourTimer
    ++ (match s.proof.stroke with
        | some k => num 1 1 ++ num 1 k.valve.val ++ code [StrokeOrigin.cursor, .request] k.origin ++ num 2 k.limit
            ++ num 2 (match k.timer with
              | .running ms => ms
              | .stopped => 0)
        | none => List.replicate 7 0)

end Layout

/-! ## Spot configurations (R2, R190) -/

/-- Every field lies in its range (R2). -/
structure SpotConfig.Valid (c : SpotConfig) : Prop where
  k : 1000 ≤ c.k ∧ c.k ≤ 1000000
  co : 1 ≤ c.co ∧ c.co ≤ 4095
  dpCutoff : c.dpCutoff ≤ 500
  settleTime : 10 ≤ c.settleTime ∧ c.settleTime ≤ 600
  purgeTime : 10 ≤ c.purgeTime ∧ c.purgeTime ≤ 900
  stripLimit : 60 ≤ c.stripLimit ∧ c.stripLimit ≤ 3600
  transferLimit : 600 ≤ c.transferLimit ∧ c.transferLimit ≤ 43200
  heelWindows : 2 ≤ c.heelWindows ∧ c.heelWindows ≤ 60
  travelLimit : 5 ≤ c.travelLimit ∧ c.travelLimit ≤ 60
  strokeLimitL : 100 ≤ c.strokeLimitL ∧ c.strokeLimitL ≤ 20000
  strokeLimitV : 100 ≤ c.strokeLimitV ∧ c.strokeLimitV ≤ 20000

/-- The body of a SPOT_CONFIG that carries a configuration to a spot, field by field (R190). -/
def SpotConfig.body (c : SpotConfig) (n : SpotNo) : List Byte :=
  Layout.num 1 n.val ++ Layout.num 1 (if c.present then 1 else 0) ++ Layout.num 4 c.k ++ Layout.num 2 c.co
    ++ Layout.num 2 c.dpCutoff ++ Layout.num 2 c.settleTime ++ Layout.num 2 c.purgeTime ++ Layout.num 2 c.stripLimit
    ++ Layout.num 2 c.transferLimit ++ Layout.num 1 c.heelWindows ++ Layout.num 1 c.travelLimit
    ++ Layout.num 2 c.strokeLimitL ++ Layout.num 2 c.strokeLimitV

/-! ## Car records (R35, R36) -/

/-- A valid car record (R35). -/
structure CarRecord.Valid (c : CarRecord) : Prop where
  idLength : 1 ≤ c.carId.length ∧ c.carId.length ≤ 12
  idChars : ∀ x ∈ c.carId, 32 ≤ x.toNat ∧ x.toNat ≤ 126
  idEnds : c.carId.head? ≠ some 32#8 ∧ c.carId.getLast? ≠ some 32#8
  declared : ∀ kg, c.declaredMass = some kg → 1 ≤ kg ∧ kg ≤ 120000
  target : ∀ kg, c.targetMass = some kg → 1 ≤ kg ∧ kg ≤ 120000
  set : ∀ l, c.spotSet = some l → l ≠ [] ∧ l = allSpots.filter fun n => n ∈ l

/-- A body of 24 bytes gives a car record, field by field: bytes beyond the id's length, the upper presence bits and the
value bytes of absent fields are disregarded (R199). -/
structure CarRecord.IsIn (c : CarRecord) (body : List Byte) : Prop where
  idLength : (body.getD 0 0).toNat = c.carId.length
  id : (body.drop 1).take c.carId.length = c.carId
  grade : (body.getD 13 0).toNat = c.grade.val
  declaredThere : (body.getD 14 0).getLsbD 0 = c.declaredMass.isSome
  targetThere : (body.getD 14 0).getLsbD 1 = c.targetMass.isSome
  setThere : (body.getD 14 0).getLsbD 2 = c.spotSet.isSome
  declared : ∀ kg, c.declaredMass = some kg → (body.drop 15).take 4 = Layout.num 4 kg
  target : ∀ kg, c.targetMass = some kg → (body.drop 19).take 4 = Layout.num 4 kg
  set : ∀ l, c.spotSet = some l → body.drop 23 = Layout.spots l

/-- Every car record held is valid, and a car id appears at most once among the manifest records and the six spot
records taken together (R35, R36). -/
structure CarsHold (s : State) : Prop where
  validInManifest : ∀ c ∈ s.manifest, c.Valid
  validAtSpots : ∀ n c, (s.spot n).car = some c → c.Valid
  onceInManifest : (s.manifest.map CarRecord.carId).Nodup
  onceAtSpots : ∀ n k c d, n ≠ k → (s.spot n).car = some c → (s.spot k).car = some d → c.carId ≠ d.carId
  onceAcross : ∀ c ∈ s.manifest, ∀ n d, (s.spot n).car = some d → c.carId ≠ d.carId

end Sys2Proof.Machine
end

