-- ==== Sys2Proof/Certificates/Slice0/Obligations.lean ====
section
/-! DEFINITION. The statements for the provers, in the order of OBLIGATIONS.json. A request's statement names the reply
by `State.answer`, which `EveryRequestIsAnswered` describes: it writes the line unit alone. -/

open Sys2Proof Sys2Proof.Machine

/-! ## The queue and the passing of time -/

/-- A step takes the command at the front of the queue and runs it with the queue's rest. -/
def Obligations.StepRunsTheFrontCommand : Prop :=
  ∀ (c : Instr) (rest : List Instr) (s : State),
    step { s with pending := c :: rest } = exec c { s with pending := rest }

/-- On an empty queue (the model's own choice, logs 1 and 7): with nothing owed 1 ms passes, every block is its record
with only its timers ticked, and the waiting commands stay none; one event owed is taken; of several, one of them is
taken, and the counter of free choices advances. -/
def Obligations.EmptyQueueStep : Prop :=
  ∀ s : State, s.pending = [] →
    (s.dueEvents = [] → ∃ t, step s = .next t
      ∧ t = { s with
          line := { s.line with gap := s.line.gap.tick }
          comp := { s.comp with
            spacing := s.comp.spacing.tick, changeover := s.comp.changeover.tick, age := s.comp.age.tick }
          proof := { s.proof with
            stepTimer := s.proof.stepTimer.tick, hourTimer := s.proof.hourTimer.tick
            stroke := s.proof.stroke.map fun k => { k with timer := k.timer.tick } }
          link := { s.link with
            entries := s.link.entries.map fun e => { e with holdOff := e.holdOff.tick }
            pollHoldOff := s.link.pollHoldOff.tick, stations := t.link.stations }
          spots := t.spots }
      ∧ (∀ n, t.spot n = { s.spot n with
            settle := (s.spot n).settle.tick, window := (s.spot n).window.tick, strip := (s.spot n).strip.tick
            purge := (s.spot n).purge.tick, travelL := (s.spot n).travelL.tick, travelV := (s.spot n).travelV.tick
            limitMs := (s.spot n).limitMs - (if (s.spot n).limitRunning then 1 else 0) }
          ∧ t.station n = { s.station n with recovery := (s.station n).recovery.tick }))
    ∧ (∀ c, s.dueEvents = [c] → step s = exec c s)
    ∧ (2 ≤ s.dueEvents.length → ∃ c ∈ s.dueEvents, step s = exec c { s with choices := s.choices + 1 })

/-! ## Reset -/

/-- Power-on reset puts every block into its power-on values and reads the pins (R198). -/
def Obligations.PowerOnResetValues : Prop :=
  ∀ (pins : PinLevels) (s : State), ∃ t, exec (.powerOnReset pins) s = .next t
    ∧ (∀ n, t.spot n =
        { state := .vacant, car := none, stripRequested := false, endReason := none,
          seqFlags := ⟨false, false, false⟩, resumePhase := none, holdReason := none, trip := none,
          bypass := ⟨false, false⟩, valveL := ValveCommand.closed, valveV := ValveCommand.closed,
          openDeferred := ⟨false, false⟩, closingRead := ClosingRead.none, purgeExpired := false,
          settle := .stopped, window := .stopped, strip := .stopped, purge := .stopped, limitMs := 0,
          limitRunning := false, travelL := .stopped, travelV := .stopped,
          config := { present := false, k := 100000, co := 100, dpCutoff := 0, settleTime := 60, purgeTime := 60,
                      stripLimit := 600, transferLimit := 14400, heelWindows := 10, travelLimit := 30,
                      strokeLimitL := 5000, strokeLimitV := 5000 } })
    ∧ (∀ n, t.meter n =
        { volume := 0, liquid := 0, vapourReturned := 0, vapourRecovered := 0, rv := 0, rm := 0, rr := 0, rc := 0,
          windowsCounted := 0, estimatedWindows := 0, heelCountdown := 0, heldRun := 0,
          flags := ⟨false, false, false, false, false, false, false⟩, heldT := ⟨1500, false⟩,
          heldDp := ⟨0, false⟩, heldPv := ⟨100, false⟩, heldCarPressure := 0, windowRead := none,
          closingRequest := false })
    ∧ (∀ n, t.station n =
        { status := .absent, misses := 0, inputs := ⟨false, false, false, false⟩, positions := none, booked := 0,
          ackOutstanding := none, recovery := .stopped })
    ∧ (∀ v, t.proofRecord v =
        { state := .due, elapsed := 65535, lastResult := none, lastTravel := none, faultSource := none })
    ∧ t.proof.cursor = 0 ∧ t.proof.stepTimer = .running 60000 ∧ t.proof.hourTimer = .running 3600000
    ∧ t.proof.stroke = none
    ∧ t.link.entries = [] ∧ t.link.inFlight = none ∧ t.link.mask = [] ∧ t.link.pollHoldOff = .stopped
    ∧ t.link.attentionLine = pins.attentionLine
    ∧ t.manifest = [] ∧ (∀ g, t.grade g = none) ∧ t.tickets = { serial := 1, queue := [], wait := [] }
    ∧ t.comp =
        { mode := .idle, position := .push, target := none, pushHolders := [], pullHolder := none,
          spacing := .stopped, changeover := .stopped, pushGrantAge := none, age := .stopped, queue := [] }
    ∧ t.siding =
        { mode := .shut, stopActive := pins.sidingStop, faultActive := pins.compressorFault,
          runInput := pins.compressorRun,
          config := { window := 1000, startSpacing := 30, changeoverTime := 20, proofInterval := 168,
                      leadTime := 24, proofStep := 60 } }
    ∧ t.line.mode = .hunt ∧ t.line.buffer = [] ∧ t.line.gap = .running 20 ∧ t.line.request = none
    ∧ t.line.reply = none ∧ t.line.rate = pins.strap
    ∧ t.summary = { tickets := 0, tripped := [], notCurrent := 12, sidingMode := .shut, compressorMode := .idle }
    ∧ (∀ b, exec (.lineByteReceived b) t = .next t)
    ∧ ∃ u, exec .gapTimerExpiry t = .next u ∧ u.line.mode = .listen

/-- The state after reset, and after any power-on reset, has the six invariants of Safety. -/
def Obligations.ResetHasTheInvariants : Prop :=
  (∀ (pins : PinLevels) (waiting : List Instr) (k : Nat), ∀ s : State, s = State.powerOn pins waiting k →
      CapacitiesHold s ∧ MetersInRange s ∧ OnePerPair s ∧ SharesFollowStates s ∧ CarsHold s ∧ TripsInOrder s)
    ∧ ∃ pins, State.reset = State.powerOn pins [] 0

/-! ## The line unit -/

/-- The table of R185, but for a byte in RECEIVING, which `FramesAreChecked` states. The model's, and no entry of that
table: the buffer is empty and the gap timer stopped in LISTEN (log 26); an expiry of the gap timer is taken whatever
time remains (log 5). -/
def Obligations.LineUnitTakesItsEvents : Prop :=
  ∀ (b : Byte) (s : State),
    (s.line.mode = .hunt →
      exec (.lineByteReceived b) s = .next { s with line := { s.line with gap := .running 20 } }
      ∧ exec .lineFramingError s = .next { s with line := { s.line with gap := .running 20 } })
    ∧ (s.line.mode = .listen →
      exec (.lineByteReceived 0xC3#8) s =
          .next { s with line := { s.line with mode := .receiving, buffer := [0xC3#8], gap := .running 20 } }
      ∧ (b ≠ 0xC3#8 → exec (.lineByteReceived b) s = .next s)
      ∧ exec .lineFramingError s = .next s)
    ∧ (s.line.mode = .answering →
      exec (.lineByteReceived b) s = .next { s with line := { s.line with discardNoted := true } }
      ∧ exec .lineFramingError s = .next { s with line := { s.line with discardNoted := true } })
    ∧ (s.line.mode = .receiving → ∃ t, exec .lineFramingError s = .next { s with line := t }
      ∧ t.mode = .hunt ∧ t.buffer = [] ∧ t.gap = .running 20 ∧ t.rate = s.line.rate)
    ∧ (s.line.gap.isRunning = true →
      (s.line.mode = .hunt → ∃ t, exec .gapTimerExpiry s = .next { s with line := t }
        ∧ t.mode = .listen ∧ t.buffer = [] ∧ t.gap = .stopped ∧ t.rate = s.line.rate)
      ∧ (s.line.mode = .receiving → ∃ t, exec .gapTimerExpiry s = .next { s with line := t }
        ∧ t.mode = .hunt ∧ t.buffer = [] ∧ t.gap = .running 20 ∧ t.rate = s.line.rate))
    ∧ (s.line.mode = .answering → s.line.reply ≠ none →
      ∃ t, exec .replyLastByteSent s = .next { s with line := t } ∧ t.reply = none ∧ t.rate = s.line.rate
        ∧ (s.line.discardNoted = true → t.mode = .hunt ∧ t.gap = .running 20)
        ∧ (s.line.discardNoted = false → t.mode = .listen ∧ t.gap = .stopped))

/-- A byte in RECEIVING (R185, R186): kept while the frame is not whole, discarded with the frame where the length
field or the CRC fails, and a request taken where the CRC of the whole frame checks. The model's, and no sentence of
those rules: on the way to ANSWERING the buffer is emptied, the gap timer stops and no discard is noted (log 26); the
request is held in the line unit until it is taken as an event of its own (log 3). -/
def Obligations.FramesAreChecked : Prop :=
  ∀ (b : Byte) (s : State), s.line.mode = .receiving →
    let bytes := s.line.buffer ++ [b]
    let length := (bytes.getD 1 0).toNat + 256 * (bytes.getD 2 0).toNat
    let covered := (bytes.drop 1).take (bytes.length - 3)
    let received := (bytes.getD (bytes.length - 2) 0).toNat + 256 * (bytes.getD (bytes.length - 1) 0).toNat
    (bytes.length < 3 ∨ (2 ≤ length ∧ length ≤ 1025 ∧ bytes.length < length + 5) →
      exec (.lineByteReceived b) s = .next { s with line := { s.line with buffer := bytes, gap := .running 20 } })
    ∧ (3 ≤ bytes.length ∧ (length < 2 ∨ 1025 < length) →
      ∃ t, exec (.lineByteReceived b) s = .next { s with line := t } ∧ t.mode = .hunt ∧ t.buffer = []
        ∧ t.gap = .running 20 ∧ t.request = s.line.request)
    ∧ (2 ≤ length ∧ length ≤ 1025 ∧ length + 5 ≤ bytes.length ∧ (crc16 covered).toNat ≠ received →
      ∃ t, exec (.lineByteReceived b) s = .next { s with line := t } ∧ t.mode = .hunt ∧ t.buffer = []
        ∧ t.gap = .running 20 ∧ t.request = s.line.request)
    ∧ (2 ≤ length ∧ length ≤ 1025 ∧ length + 5 ≤ bytes.length ∧ (crc16 covered).toNat = received →
      ∃ t, exec (.lineByteReceived b) s = .next { s with line := t } ∧ t.mode = .answering ∧ t.buffer = []
        ∧ t.gap = .stopped ∧ t.discardNoted = false
        ∧ t.request = some (requestOf (bytes.getD 3 0) (bytes.getD 4 0) ((bytes.drop 5).take (length - 2))))

/-- The bytes of a request frame, received one by one on a listening line, hand the line unit exactly the request the
frame was made from. -/
def Obligations.FrameRoundTrip : Prop :=
  ∀ (code tag : Byte) (body : List Byte) (s : State), body.length ≤ 1023 → s.line.mode = .listen →
    ∃ t : State,
      Host.Core.run Sys2Proof.core (body.length + 7)
        { s with pending := (lineFrame code tag body).map Instr.lineByteReceived } = .next t
      ∧ t.line.mode = .answering ∧ t.line.request = some (requestOf code tag body)
      ∧ t = { s with pending := [], line := t.line }

/-- Of a whole request the line unit judges the code, then the body length (R186, R190). The model's choices: a code that
is in the table is no UNSUPPORTED_REQUEST, and that command stops as notThisCommand (log 17); a body longer than any
frame can carry is refused LENGTH like any other wrong length (log 25). -/
def Obligations.CodeAndLengthAreJudgedFirst : Prop :=
  ∀ (tag : Byte) (body : List Byte) (s : State),
    (∀ row ∈ [(0x01#8, 24), (0x02#8, 13), (0x03#8, 14), (0x04#8, 0), (0x05#8, 15), (0x06#8, 1), (0x07#8, 2),
        (0x08#8, 1), (0x09#8, 1), (0x0A#8, 1), (0x0B#8, 1), (0x0C#8, 5), (0x0D#8, 24), (0x0E#8, 2),
        (0x0F#8, 18 + 4 * (body.getD 17 0).toNat), (0x10#8, 1), (0x11#8, 9), (0x12#8, 1), (0x13#8, 1), (0x14#8, 0),
        (0x15#8, 0), (0x16#8, 4), (0x17#8, 0), (0x18#8, 0)],
      (body.length ≠ row.2 → exec (requestOf row.1 tag body) s = .next (s.answer row.1 tag .length []))
      ∧ exec (.unsupportedRequest row.1 tag body) s = .fault .notThisCommand)
    ∧ ∀ code : Byte, (code.toNat = 0 ∨ 24 < code.toNat) →
        requestOf code tag body = .unsupportedRequest code tag body
        ∧ exec (.unsupportedRequest code tag body) s = .next (s.answer code tag .unsupported [])

/-- Every whole request brings one reply: the request's code with bit 7 set, its tag, a status, the summary as the
blocks then stand; a status other than OK leaves every block as it was (R187, R188, R189). The model's choice (log 2): a
request command is answered whatever state the line unit is in, and the line unit then stands in ANSWERING. -/
def Obligations.EveryRequestIsAnswered : Prop :=
  ∀ (code tag : Byte) (body : List Byte) (s : State), ∃ t r, exec (requestOf code tag body) s = .next t
    ∧ t.line.mode = .answering ∧ t.line.request = none ∧ t.line.reply = some r ∧ t.line.rate = s.line.rate
    ∧ r.code = code ||| 0x80#8 ∧ r.tag = tag
    ∧ r.summary =
        { tickets := t.tickets.queue.length
          tripped := allSpots.filter fun n => (t.spot n).state = SpotState.tripped
          notCurrent := (allValves.filter fun v => (t.proofRecord v).state ≠ ProofState.current).length
          sidingMode := t.siding.mode
          compressorMode := t.comp.mode }
    ∧ (r.status ≠ .ok → t = { s with line := t.line })
    ∧ t.pending = s.pending

/-! ## The manifest -/

/-- CAR_ADD makes its checks in order: the record, its id among the manifest and the spots, the room; then the record
joins at the tail (R37). -/
def Obligations.CarAddChecksInOrder : Prop :=
  ∀ (tag : Byte) (body : List Byte) (s : State), body.length = 24 →
    (readCarRecord body = none → exec (.carAdd tag body) s = .next (s.answer 0x01 tag .range []))
    ∧ ∀ c, readCarRecord body = some c →
      (∀ before d after, s.manifest = before ++ d :: after → d.carId = c.carId → (∀ e ∈ before, e.carId ≠ c.carId) →
        exec (.carAdd tag body) s = .next (s.answer 0x01 tag .duplicate [0, BitVec.ofNat 8 before.length]))
      ∧ ((∀ d ∈ s.manifest, d.carId ≠ c.carId) →
        (∀ n d, (s.spot n).car = some d → d.carId = c.carId →
            (∀ k e, k < n → (s.spot k).car = some e → e.carId ≠ c.carId) →
          exec (.carAdd tag body) s = .next (s.answer 0x01 tag .duplicate [1, BitVec.ofNat 8 n.val]))
        ∧ ((∀ n d, (s.spot n).car = some d → d.carId ≠ c.carId) →
          (24 ≤ s.manifest.length → exec (.carAdd tag body) s = .next (s.answer 0x01 tag .full []))
          ∧ (s.manifest.length < 24 → exec (.carAdd tag body) s =
              .next (({ s with manifest := s.manifest ++ [c] } : State).answer 0x01 tag .ok
                [BitVec.ofNat 8 s.manifest.length, BitVec.ofNat 8 (s.manifest.length + 1)]))))

/-- CAR_WITHDRAW and CAR_MOVE: the id, the record with it, the target position; the record leaves, or stands at the
target, and the others keep their order (R38, R39). -/
def Obligations.CarWithdrawAndMove : Prop :=
  ∀ (tag : Byte) (body : List Byte) (s : State),
    (body.length = 13 → readCarId body 0 = none →
      exec (.carWithdraw tag body) s = .next (s.answer 0x02 tag .range []))
    ∧ (body.length = 14 → readCarId body 0 = none →
      exec (.carMove tag body) s = .next (s.answer 0x03 tag .range []))
    ∧ ∀ id, readCarId body 0 = some id →
      (∀ before c after, s.manifest = before ++ c :: after → c.carId = id → (∀ d ∈ before, d.carId ≠ id) →
        (body.length = 13 → exec (.carWithdraw tag body) s =
          .next (({ s with manifest := before ++ after } : State).answer 0x02 tag .ok
            (c.bytes ++ [BitVec.ofNat 8 before.length, BitVec.ofNat 8 (before.length + after.length)])))
        ∧ (body.length = 14 →
          let target := (body.getD 13 0).toNat
          (s.manifest.length ≤ target → exec (.carMove tag body) s = .next (s.answer 0x03 tag .range []))
          ∧ (target < s.manifest.length → exec (.carMove tag body) s =
            .next (({ s with manifest := (before ++ after).take target ++ c :: (before ++ after).drop target } :
              State).answer 0x03 tag .ok [BitVec.ofNat 8 before.length, body.getD 13 0]))))
      ∧ ((∀ d ∈ s.manifest, d.carId ≠ id) →
        (∀ n d, (s.spot n).car = some d → d.carId = id →
            (∀ k e, k < n → (s.spot k).car = some e → e.carId ≠ id) →
          (body.length = 13 → exec (.carWithdraw tag body) s =
            .next (s.answer 0x02 tag .busy [BitVec.ofNat 8 n.val]))
          ∧ (body.length = 14 → exec (.carMove tag body) s =
            .next (s.answer 0x03 tag .busy [BitVec.ofNat 8 n.val])))
        ∧ ((∀ n d, (s.spot n).car = some d → d.carId ≠ id) →
          (body.length = 13 → exec (.carWithdraw tag body) s = .next (s.answer 0x02 tag .unknown []))
          ∧ (body.length = 14 → exec (.carMove tag body) s = .next (s.answer 0x03 tag .unknown []))))

/-- Every step keeps the car records held valid, and each id held at most once (R36). -/
def Obligations.CarsStayValidAndOnce : Prop :=
  ∀ s t : State, CarsHold s → step s = .next t → CarsHold t

/-! ## Requests that read -/

/-- The requests that only read change no block, and their results have the layouts of R193, R199, R200, R201 and R203,
which `Layout` gives byte by byte; TICKET_READ is refused EMPTY on an empty queue, GRADE_READ UNKNOWN on a grade that is
not loaded, and both it and SPOTS_READ refuse numbers out of range (R40, R88, R143, R177, R192, R193). The fields that
other statements name by the model's own encoders have the same layouts (R191, R202). -/
def Obligations.ReadingChangesNothing : Prop :=
  (∀ (tag : Byte) (s : State),
    exec (.carList tag []) s =
      .next (s.answer 0x04 tag .ok (Layout.num 1 s.manifest.length ++ s.manifest.flatMap Layout.car))
    ∧ (∀ first last : Byte,
      (last.toNat < first.toNat ∨ 5 < last.toNat →
        exec (.spotsRead tag [first, last]) s = .next (s.answer 0x0E tag .range []))
      ∧ (first.toNat ≤ last.toNat → last.toNat ≤ 5 → exec (.spotsRead tag [first, last]) s =
        .next (s.answer 0x0E tag .ok (Layout.num 1 (last.toNat - first.toNat + 1)
          ++ (allSpots.filter fun n => first.toNat ≤ n.val ∧ n.val ≤ last.toNat).flatMap (Layout.snapshot s)))))
    ∧ (CarsHold s → ∀ n, (Layout.snapshot s n).length = 46)
    ∧ (∀ b : Byte, 3 < b.toNat → exec (.gradeRead tag [b]) s = .next (s.answer 0x10 tag .range []))
    ∧ (∀ g : GradeNo,
      (s.grade g = none → exec (.gradeRead tag [BitVec.ofNat 8 g.val]) s = .next (s.answer 0x10 tag .unknown []))
      ∧ ∀ r, s.grade g = some r → exec (.gradeRead tag [BitVec.ofNat 8 g.val]) s =
          .next (s.answer 0x10 tag .ok (Layout.grade g r
            ++ Layout.spots (allSpots.filter fun n => (s.spot n).car.map CarRecord.grade = some g))))
    ∧ exec (.proofRead tag []) s = .next (s.answer 0x14 tag .ok (Layout.proofs s)) ∧ (Layout.proofs s).length = 108
    ∧ (s.tickets.queue = [] → exec (.ticketRead tag []) s = .next (s.answer 0x15 tag .empty []))
    ∧ (∀ ticket rest, s.tickets.queue = ticket :: rest → exec (.ticketRead tag []) s =
      .next (s.answer 0x15 tag .ok (Layout.ticket ticket
        ++ Layout.num 1 s.tickets.queue.length ++ Layout.num 1 s.tickets.wait.length
        ++ s.tickets.wait.flatMap fun w => Layout.num 1 w.spot.val ++ Layout.num 4 w.ticket.number)))
    ∧ exec (.status tag []) s = .next (s.answer 0x17 tag .ok (Layout.status s)) ∧ (Layout.status s).length = 54)
  ∧ (∀ width v, leBytes width v = Layout.num width v)
  ∧ (∀ c : CarRecord, c.bytes = Layout.car c)
  ∧ (∀ set, [spotSetByte set] = Layout.spots set)
  ∧ (∀ set, causeSetBytes set = Layout.causes set)
  ∧ (∀ set, permissiveSetBytes set = Layout.permissives set)
  ∧ (∀ label, charField 8 label = Layout.chars 8 label)
  ∧ (∀ x : SidingMode, [BitVec.ofNat 8 x.code] = Layout.code [SidingMode.run, .quiet, .shut] x)
  ∧ ∀ x : StationStatus, [BitVec.ofNat 8 x.code] = Layout.code Layout.statuses x

/-! ## Spot requests: which states take them -/

/-- R4: a spot number above 5 is refused RANGE; in the states the table refuses, BUSY (EMPTY for SPOT_RELEASE in
VACANT); SPOT_HOLD in HELD and SPOT_STOP in PURGE are OK with no change. -/
def Obligations.SpotRequestsByState : Prop :=
  ∀ (tag : Byte) (s : State), ∀ row ∈ [(0x05#8, 15), (0x06#8, 1), (0x07#8, 2), (0x08#8, 1), (0x09#8, 1), (0x0A#8, 1),
      (0x0B#8, 1), (0x0C#8, 5), (0x0D#8, 24)], ∀ body : List Byte, body.length = row.2 →
    (5 < (body.getD 0 0).toNat → exec (requestOf row.1 tag body) s = .next (s.answer row.1 tag .range []))
    ∧ ∀ n : SpotNo, (body.getD 0 0).toNat = n.val →
      ((row.1 = 0x05#8 ∧ (s.spot n).state ≠ .vacant)
        ∨ (row.1 = 0x06#8 ∧ (s.spot n).state ∉ [SpotState.vacant, .assigned, .connected, .ready])
        ∨ (row.1 = 0x07#8 ∧ (s.spot n).state ≠ .ready)
        ∨ (row.1 = 0x08#8 ∧ (s.spot n).state ∉ [SpotState.startWait, .transfer, .stripWait, .strip, .held])
        ∨ (row.1 = 0x09#8 ∧ (s.spot n).state ≠ .held)
        ∨ (row.1 = 0x0A#8
          ∧ (s.spot n).state ∉ [SpotState.startWait, .transfer, .stripWait, .strip, .held, .purge])
        ∨ (row.1 = 0x0B#8 ∧ (s.spot n).state ≠ .tripped)
        ∨ (row.1 = 0x0C#8 ∧ (s.spot n).state ∈ [SpotState.vacant, .ticketWait, .complete])
        ∨ (row.1 = 0x0D#8 ∧ (s.spot n).state ≠ .vacant) →
        exec (requestOf row.1 tag body) s = .next (s.answer row.1 tag .busy []))
      ∧ (row.1 = 0x06#8 → (s.spot n).state = .vacant →
        exec (requestOf row.1 tag body) s = .next (s.answer row.1 tag .empty []))
      ∧ ((row.1 = 0x08#8 ∧ (s.spot n).state = .held) ∨ (row.1 = 0x0A#8 ∧ (s.spot n).state = .purge) →
        exec (requestOf row.1 tag body) s = .next (s.answer row.1 tag .ok []))

/-! ## Assignment and release -/

/-- SPOT_ASSIGN in VACANT: the selector, then the spot present, no stroke on it, its station not LOST, and then the
selection refuse in this order (R5, R41, R42). -/
def Obligations.SpotAssignChecksInOrder : Prop :=
  ∀ (tag selector : Byte) (id : List Byte) (n : SpotNo) (s : State), id.length = 13 → (s.spot n).state = .vacant →
    let request := Instr.spotAssign tag (BitVec.ofNat 8 n.val :: selector :: id)
    (1 < selector.toNat → exec request s = .next (s.answer 0x05 tag .range []))
    ∧ (selector.toNat ≤ 1 →
      ((s.spot n).config.present = false → exec request s = .next (s.answer 0x05 tag .range []))
      ∧ ((s.spot n).config.present = true →
        (s.strokeOn n = true → exec request s = .next (s.answer 0x05 tag .busy []))
        ∧ (s.strokeOn n = false →
          ((s.station n).status = .lost → exec request s = .next (s.answer 0x05 tag .notPermitted []))
          ∧ ((s.station n).status ≠ .lost →
            (selector = 0 → (∀ c ∈ s.manifest, ∃ set, c.spotSet = some set ∧ n ∉ set) →
              exec request s = .next (s.answer 0x05 tag .empty []))
            ∧ (selector = 1 →
              (readCarId id 0 = none → exec request s = .next (s.answer 0x05 tag .range []))
              ∧ ∀ chars, readCarId id 0 = some chars →
                ((∀ c ∈ s.manifest, c.carId ≠ chars) → exec request s = .next (s.answer 0x05 tag .unknown []))
                ∧ (∀ before c after set, s.manifest = before ++ c :: after → c.carId = chars →
                    (∀ d ∈ before, d.carId ≠ chars) → c.spotSet = some set → n ∉ set →
                  exec request s = .next (s.answer 0x05 tag .range [])))))))

/-- SPOT_ASSIGN accepted: the first record that admits the spot, or the record with the id, leaves the manifest and is
bound; the spot is ASSIGNED, or goes on at once to CONNECTED when ARMS and BOND are true, and then to TRIPPED on any
level cause present (R5, R6, R41, R42, R43, R49, R109). -/
def Obligations.SpotAssignBinds : Prop :=
  ∀ (tag selector : Byte) (id : List Byte) (n : SpotNo) (s : State) (before after : List CarRecord) (c : CarRecord),
    id.length = 13 → (s.spot n).state = .vacant → (s.spot n).config.present = true → s.strokeOn n = false →
    (s.station n).status ≠ .lost → s.manifest = before ++ c :: after → (∀ set, c.spotSet = some set → n ∈ set) →
    ((selector = 0 ∧ ∀ d ∈ before, ∃ set, d.spotSet = some set ∧ n ∉ set)
      ∨ (selector = 1 ∧ readCarId id 0 = some c.carId ∧ ∀ d ∈ before, d.carId ≠ c.carId)) →
    let x := (s.station n).inputs
    let bound : SpotRecord :=
      { s.spot n with
        state := .assigned, car := some c, stripRequested := false, endReason := none,
        seqFlags := ⟨false, false, false⟩, resumePhase := none, holdReason := none, trip := none,
        closingRead := ClosingRead.none, purgeExpired := false, limitMs := 1000 * (s.spot n).config.transferLimit,
        limitRunning := false }
    let metered : Meter :=
      { volume := 0, liquid := 0, vapourReturned := 0, vapourRecovered := 0, rv := 0, rm := 0, rr := 0, rc := 0,
        windowsCounted := 0, estimatedWindows := 0, heelCountdown := 0, heldRun := 0,
        flags := ⟨false, false, false, false, false, false, false⟩, heldT := (s.meter n).heldT,
        heldDp := (s.meter n).heldDp, heldPv := (s.meter n).heldPv, heldCarPressure := (s.meter n).heldCarPressure,
        windowRead := none, closingRequest := false }
    let assigned := ({ s with manifest := before ++ after } : State).setMeter n metered
    let connected := { bound with state := .connected, settle := .running (1000 * bound.config.settleTime) }
    let causes : List TripCause :=
      (if x.esd then [.esd] else []) ++ (if x.gas then [.gas] else [])
        ++ (if s.siding.stopActive then [.sidingStop] else [])
        ++ (if (s.station n).status = .localOp then [.stationLocal] else [])
    ((x.arms && x.bond) = false →
      exec (.spotAssign tag (BitVec.ofNat 8 n.val :: selector :: id)) s =
        .next ((assigned.setSpot n bound).answer 0x05 tag .ok (1 :: c.bytes)))
    ∧ ((x.arms && x.bond) = true → causes = [] →
      exec (.spotAssign tag (BitVec.ofNat 8 n.val :: selector :: id)) s =
        .next ((assigned.setSpot n connected).answer 0x05 tag .ok (2 :: c.bytes)))
    ∧ ((x.arms && x.bond) = true → ∀ first rest, causes = first :: rest →
      ∃ u, EntersTripped (assigned.setSpot n connected) u n ⟨first, causes⟩
        ∧ exec (.spotAssign tag (BitVec.ofNat 8 n.val :: selector :: id)) s =
          .next (u.answer 0x05 tag .ok (12 :: c.bytes)))

/-- SPOT_RELEASE of a bound car: FULL while the manifest holds 24; else the record goes to the head and the spot becomes
VACANT with its settle timer stopped and its valve commands as they were (R8, R25, R44). -/
def Obligations.SpotReleaseReturnsTheCar : Prop :=
  ∀ (tag : Byte) (n : SpotNo) (c : CarRecord) (s : State),
    (s.spot n).state ∈ [SpotState.assigned, .connected, .ready] → (s.spot n).car = some c →
    (24 ≤ s.manifest.length →
      exec (.spotRelease tag [BitVec.ofNat 8 n.val]) s = .next (s.answer 0x06 tag .full []))
    ∧ (s.manifest.length < 24 → exec (.spotRelease tag [BitVec.ofNat 8 n.val]) s =
      .next ((({ s with manifest := c :: s.manifest } : State).setSpot n
        { s.spot n with
          state := .vacant, car := none, bypass := ⟨false, false⟩, stripRequested := false, endReason := none,
          seqFlags := ⟨false, false, false⟩, resumePhase := none, holdReason := none, trip := none,
          closingRead := ClosingRead.none, settle := .stopped }).answer 0x06 tag .ok
            [BitVec.ofNat 8 (s.manifest.length + 1)]))

/-! ## Permissives and trip causes -/

/-- The eleven permissives are true when R9's table says so, and stand at its positions. The ten trip causes arise and are
present as R107's table says: BOND_LOST and ARMS_LOST are judged present only for a spot that has counted a window or
holds an end_reason. -/
def Obligations.PermissivesAndTripCauses : Prop :=
  (∀ (s : State) (n : SpotNo),
    (s.permissive n .bond = true ↔ (s.station n).inputs.bond = true)
    ∧ (s.permissive n .arms = true ↔ (s.station n).inputs.arms = true)
    ∧ (s.permissive n .remote = true ↔ (s.station n).status = .online)
    ∧ (s.permissive n .gasClear = true ↔ (s.station n).inputs.gas = false)
    ∧ (s.permissive n .esdClear = true ↔ (s.station n).inputs.esd = false)
    ∧ (s.permissive n .proofCurrent = true ↔ ∀ v : ValveIndex, v.val / 2 = n.val → (s.proofRecord v).state ≠ .due)
    ∧ (s.permissive n .valveHealth = true ↔ ∀ v : ValveIndex, v.val / 2 = n.val → (s.proofRecord v).state ≠ .failed)
    ∧ (s.permissive n .carPressure = true ↔ ∃ c g, (s.spot n).car = some c ∧ s.grade c.grade = some g
        ∧ (s.meter n).heldCarPressure ≤ g.maxPressure)
    ∧ (s.permissive n .gradeLoaded = true ↔ ∃ c g, (s.spot n).car = some c ∧ s.grade c.grade = some g)
    ∧ (s.permissive n .sidingRun = true ↔ s.siding.mode = .run ∧ s.siding.stopActive = false)
    ∧ (s.permissive n .valvesAtRest = true ↔ ∀ k, s.proof.stroke = some k → k.valve.val / 2 ≠ n.val)
    ∧ Permissive.all.map Permissive.position = [0, 1, 2, 3, 4, 5, 6, 7, 8, 9, 10]
    ∧ ∀ p set, (permissiveSetBytes set).length = 2
        ∧ (num2 (permissiveSetBytes set) 0).testBit p.position = decide (p ∈ set))
  ∧ (∀ (s : State) (n : SpotNo),
    let begun := 0 < (s.meter n).windowsCounted ∨ (s.spot n).endReason ≠ none
    (s.causePresent n .esd = true ↔ (s.station n).inputs.esd = true)
    ∧ (s.causePresent n .gas = true ↔ (s.station n).inputs.gas = true)
    ∧ (s.causePresent n .sidingStop = true ↔ s.siding.stopActive = true)
    ∧ (s.causePresent n .bondLost = true ↔ (s.station n).inputs.bond = false ∧ begun)
    ∧ (s.causePresent n .armsLost = true ↔ (s.station n).inputs.arms = false ∧ begun)
    ∧ (s.causePresent n .stationLost = true ↔ (s.station n).status = .lost)
    ∧ (s.causePresent n .stationLocal = true ↔ (s.station n).status = .localOp)
    ∧ (s.causePresent n .valveFault = true ↔
        ((s.spot n).valveL = .closing ∧ (s.spot n).travelL = .stopped)
        ∨ ((s.spot n).valveV = .closing ∧ (s.spot n).travelV = .stopped))
    ∧ s.causePresent n .overpressure = false ∧ s.causePresent n .sensorFault = false
    ∧ (s.levelCondition n .bondLost = true ↔ (s.station n).inputs.bond = false)
    ∧ (s.levelCondition n .armsLost = true ↔ (s.station n).inputs.arms = false)
    ∧ (∀ c ∈ [TripCause.esd, .gas, .sidingStop, .stationLost, .stationLocal],
        s.levelCondition n c = s.causePresent n c)
    ∧ (∀ c ∈ [TripCause.valveFault, .overpressure, .sensorFault], s.levelCondition n c = false)
    ∧ TripCause.all.map TripCause.number = [1, 2, 3, 4, 5, 6, 7, 8, 9, 10])

/-! ## Start, hold, resume, stop -/

/-- SPOT_START in READY: a strip option above 1 is refused RANGE, failing permissives NOT_PERMITTED with their list; else
the spot asks for a PUSH entry at the tail, and the head is examined (R11). -/
def Obligations.SpotStartJudgesPermissives : Prop :=
  ∀ (tag option : Byte) (n : SpotNo) (s : State), (s.spot n).state = .ready →
    let b := (s.spot n).bypass
    let failing := Permissive.all.filter fun p => !s.permissive n p
      && !((p == .proofCurrent && b.proofCurrent) || (p == .carPressure && b.carPressure))
    (1 < option.toNat →
      exec (.spotStart tag [BitVec.ofNat 8 n.val, option]) s = .next (s.answer 0x07 tag .range []))
    ∧ (option.toNat ≤ 1 → failing ≠ [] → exec (.spotStart tag [BitVec.ofNat 8 n.val, option]) s =
      .next (s.answer 0x07 tag .notPermitted (permissiveSetBytes failing)))
    ∧ (option.toNat ≤ 1 → failing = [] → exec (.spotStart tag [BitVec.ofNat 8 n.val, option]) s =
      .next ((({ s with comp := { s.comp with queue := s.comp.queue ++ [⟨n, .push⟩] } } : State).setSpot n
        { s.spot n with
          state := .startWait, stripRequested := decide (option.toNat = 1),
          seqFlags := { (s.spot n).seqFlags with
            bypassUsed := (s.spot n).seqFlags.bypassUsed || b.proofCurrent || b.carPressure } }).examine.answer
        0x07 tag .ok [0, 0]))

/-- SPOT_HOLD in START_WAIT, TRANSFER, STRIP_WAIT and STRIP enters HELD with reason OPERATOR (R20). SPOT_RESUME in HELD is
refused NOT_PERMITTED while the mode is SHUT or the compressor fault is active, whatever the hold_reason; else the spot
rejoins the queue at the tail by its resume_phase (R21, R119). -/
def Obligations.SpotHoldAndResume : Prop :=
  (∀ (tag : Byte) (n : SpotNo) (s : State),
    (s.spot n).state ∈ [SpotState.startWait, .transfer, .stripWait, .strip] →
    ∃ u, EntersHeld s u n .operator
      ∧ exec (.spotHold tag [BitVec.ofNat 8 n.val]) s = .next (u.answer 0x08 tag .ok []))
  ∧ (∀ (tag : Byte) (n : SpotNo) (s : State), (s.spot n).state = .held →
    (s.siding.mode = .shut ∨ s.siding.faultActive = true →
      exec (.spotResume tag [BitVec.ofNat 8 n.val]) s = .next (s.answer 0x09 tag .notPermitted
        [BitVec.ofNat 8 ((if s.siding.mode = .shut then 1 else 0) + (if s.siding.faultActive then 2 else 0))]))
    ∧ (s.siding.mode ≠ .shut → s.siding.faultActive = false →
      ((s.spot n).resumePhase = some .liquid → exec (.spotResume tag [BitVec.ofNat 8 n.val]) s =
        .next ((({ s with comp := { s.comp with queue := s.comp.queue ++ [⟨n, .push⟩] } } : State).setSpot n
          { s.spot n with state := .startWait, resumePhase := none, holdReason := none }).examine.answer
          0x09 tag .ok []))
      ∧ ((s.spot n).resumePhase = some .strip → exec (.spotResume tag [BitVec.ofNat 8 n.val]) s =
        .next ((({ s with comp := { s.comp with queue := s.comp.queue ++ [⟨n, .pull⟩] } } : State).setSpot n
          { s.spot n with state := .stripWait, resumePhase := none, holdReason := none }).examine.answer
          0x09 tag .ok []))))

/-- SPOT_STOP by R19's table: to READY from a liquid wait with no window counted, else to PURGE, with STOPPED where the
liquid phase had not ended. -/
def Obligations.SpotStopByTable : Prop :=
  ∀ (tag : Byte) (n : SpotNo) (s : State),
    let r := s.spot n
    let request := Instr.spotStop tag [BitVec.ofNat 8 n.val]
    let liquidWait := r.state = .startWait ∨ (r.state = .held ∧ r.resumePhase = some .liquid)
    (liquidWait → (s.meter n).windowsCounted = 0 → ∃ u, exec request s = .next (u.answer 0x0A tag .ok [])
      ∧ HoldsNothing u.comp n ∧ CourseOf s u n ∧ u.meter n = s.meter n
      ∧ u.spot n = { r with
          state := .ready
          resumePhase := if r.state = .held then none else r.resumePhase
          holdReason := if r.state = .held then none else r.holdReason })
    ∧ ((liquidWait ∧ (s.meter n).windowsCounted ≠ 0) ∨ r.state = .transfer →
      ∃ u, exec request s = .next (u.answer 0x0A tag .ok []) ∧ EntersPurge s u n (some .stopped)
        ∧ (r.state = .held → (u.spot n).resumePhase = none ∧ (u.spot n).holdReason = none))
    ∧ (r.state = .stripWait ∨ r.state = .strip ∨ (r.state = .held ∧ r.resumePhase = some .strip) →
      ∃ u, exec request s = .next (u.answer 0x0A tag .ok []) ∧ EntersPurge s u n none
        ∧ (r.state = .held → (u.spot n).resumePhase = none ∧ (u.spot n).holdReason = none))

/-! ## Reset, override, configuration -/

/-- SPOT_RESET in TRIPPED: refused NOT_PERMITTED with the causes present; else the trip record is cleared, and the spot
goes to PURGE when metering had begun, else to CONNECTED or ASSIGNED (R116, R117). -/
def Obligations.SpotResetDestination : Prop :=
  ∀ (tag : Byte) (n : SpotNo) (t : TripRecord) (s : State), (s.spot n).state = .tripped → (s.spot n).trip = some t →
    let r := s.spot n
    let request := Instr.spotReset tag [BitVec.ofNat 8 n.val]
    let present := TripCause.all.filter (s.causePresent n)
    let begun := 0 < (s.meter n).windowsCounted ∨ r.endReason ≠ none
    let ready := (s.station n).inputs.arms = true ∧ (s.station n).inputs.bond = true
    let cleared : List Byte := BitVec.ofNat 8 t.firstOut.number :: causeSetBytes t.causes
    (present ≠ [] → exec request s = .next (s.answer 0x0B tag .notPermitted (causeSetBytes present)))
    ∧ (present = [] →
      (begun → ∃ u, exec request s = .next (u.answer 0x0B tag .ok (9 :: cleared))
        ∧ EntersPurge s u n (if r.endReason = none then some .interrupted else none)
        ∧ (u.spot n).trip = none)
      ∧ (¬begun → ready → exec request s = .next ((s.setSpot n
          { r with state := .connected, trip := none, settle := .running (1000 * r.config.settleTime) }).answer
            0x0B tag .ok (2 :: cleared)))
      ∧ (¬begun → ¬ready → exec request s =
          .next ((s.setSpot n { r with state := .assigned, trip := none }).answer 0x0B tag .ok (1 :: cleared))))

/-- SPOT_OVERRIDE writes the bypass set: positions 5 and 7 alone, from the value inside the mask and from the old set
outside it (R10). -/
def Obligations.SpotOverrideWritesTheBypassSet : Prop :=
  ∀ (tag m0 m1 v0 v1 : Byte) (n : SpotNo) (s : State),
    (s.spot n).state ∉ [SpotState.vacant, .ticketWait, .complete] →
    let request := Instr.spotOverride tag [BitVec.ofNat 8 n.val, m0, m1, v0, v1]
    let mask := m0.toNat + 256 * m1.toNat
    let value := v0.toNat + 256 * v1.toNat
    let outside := (∃ p, p ≠ 5 ∧ p ≠ 7 ∧ mask.testBit p = true) ∨ (∃ p, 10 < p ∧ value.testBit p = true)
    let proof := if mask.testBit 5 then value.testBit 5 else (s.spot n).bypass.proofCurrent
    let pressure := if mask.testBit 7 then value.testBit 7 else (s.spot n).bypass.carPressure
    (outside → exec request s = .next (s.answer 0x0C tag .range []))
    ∧ (¬outside → exec request s =
      .next ((s.setSpot n { s.spot n with bypass := ⟨proof, pressure⟩ }).answer 0x0C tag .ok
        [BitVec.ofNat 8 ((if proof then 32 else 0) + (if pressure then 128 else 0)), 0]))

/-- A valid car record, written as 24 bytes, is read back whole; what is read as a record is valid, and 24 bytes are read
as a record exactly when it is valid and is the one in them, so that a field out of range is refused (R35, R199). The
same of a configuration in a SPOT_CONFIG body, whose bytes after the spot number are those of the configuration read
(R2, R190). -/
def Obligations.CarAndConfigRoundTrip : Prop :=
  ((∀ c : CarRecord, c.Valid → c.bytes.length = 24 ∧ readCarRecord c.bytes = some c)
    ∧ (∀ (body : List Byte) (c : CarRecord), readCarRecord body = some c → c.Valid)
    ∧ ∀ (body : List Byte) (c : CarRecord), body.length = 24 → (readCarRecord body = some c ↔ c.Valid ∧ c.IsIn body))
  ∧ ((∀ (c : SpotConfig) (n : SpotNo), c.Valid → (c.body n).length = 24 ∧ readSpotConfig (c.body n) = some c)
    ∧ (∀ (body : List Byte) (c : SpotConfig), readSpotConfig body = some c → c.Valid)
    ∧ ∀ (body : List Byte) (c : SpotConfig) (n : SpotNo), body.length = 24 →
        (readSpotConfig body = some c ↔ c.Valid ∧ body.drop 1 = (c.body n).drop 1))

/-- SPOT_CONFIG in VACANT: RANGE where a field is out of range; else the configuration is replaced, a stroke on the spot
is ABORTED, and the station becomes UNKNOWN with an INITIALIZE queued, or ABSENT with nothing left of it on the link
(R32, R49, R152, R153, R165). -/
def Obligations.SpotConfigTakesEffect : Prop :=
  ∀ (tag : Byte) (body : List Byte) (n : SpotNo) (s : State), body.length = 24 → (body.getD 0 0).toNat = n.val →
    (s.spot n).state = .vacant →
    (readSpotConfig body = none → exec (.spotConfig tag body) s = .next (s.answer 0x0D tag .range []))
    ∧ ∀ c, readSpotConfig body = some c → ∃ u, exec (.spotConfig tag body) s = .next (u.answer 0x0D tag .ok [])
      ∧ (u.spot n).config = c ∧ (u.spot n).state = .vacant ∧ (u.spot n).car = (s.spot n).car
      ∧ u.strokeOn n = false
      ∧ (∀ k, s.proof.stroke = some k → k.valve.val / 2 = n.val →
          u.proof.stroke = none
          ∧ u.proofRecord k.valve = { s.proofRecord k.valve with lastResult := some .aborted }
          ∧ (u.spot n).valve (valveSideOf k.valve) = .closed)
      ∧ (s.strokeOn n = false → u.proof = s.proof)
      ∧ (c.present = true →
          u.station n = { s.station n with
            status := .unknown, misses := 0, recovery := .stopped, inputs := ⟨false, false, false, false⟩,
            positions := none }
          ∧ u.meter n = { s.meter n with
              heldT := ⟨1500, false⟩, heldDp := ⟨0, false⟩, heldPv := ⟨100, false⟩, heldCarPressure := 0,
              windowRead := none, closingRequest := false }
          ∧ u.link.hasPending (some n) .initStation = true ∧ n ∈ u.link.mask
          ∧ (s.strokeOn n = false → u.spot n = { s.spot n with config := c }))
      ∧ (c.present = false →
          u.station n = { s.station n with status := .absent, recovery := .stopped }
          ∧ u.meter n = s.meter n
          ∧ (∀ e ∈ u.link.entries, e.station ≠ some n) ∧ n ∉ u.link.mask
          ∧ (∀ f, u.link.inFlight = some f → f.entry.station = some n → f.mark = .dropped)
          ∧ (u.spot n).valveL = .closed ∧ (u.spot n).valveV = .closed ∧ (u.spot n).travelL = .stopped
          ∧ (u.spot n).travelV = .stopped ∧ (u.spot n).openDeferred = ⟨false, false⟩)
      ∧ KeepsOthers s u n ∧ Event s u ∧ u.comp = s.comp ∧ u.tickets = s.tickets ∧ u.choices = s.choices

/-! ## The compressor queue -/

/-- An examination of the queue head (R92 to R97): nothing while grants are frozen or the queue is empty; a head that can
be granted is granted and the new head examined; a head that needs the other position begins a changeover from IDLE;
any other head waits. -/
def Obligations.QueueHeadIsExamined : Prop :=
  ∀ s : State,
    (s.siding.mode ≠ .run ∨ s.siding.faultActive = true → s.examine = s)
    ∧ (s.comp.queue = [] → s.examine = s)
    ∧ (s.siding.mode = .run → s.siding.faultActive = false → ∀ e rest, s.comp.queue = e :: rest →
      let granted :=
        (e.kind = .push ∧ s.comp.position = .push ∧ (s.comp.mode = .idle ∨ s.comp.mode = .push)
          ∧ s.comp.pushHolders.length < 4 ∧ s.comp.spacing = .stopped)
        ∨ (e.kind = .pull ∧ s.comp.position = .pull ∧ s.comp.mode = .idle)
      (granted → s.examine = (s.grant e rest).examine)
      ∧ (¬granted → e.kind ≠ s.comp.position → s.comp.mode = .idle →
        s.examine = { s with comp := { s.comp with
          mode := .changeover, target := some e.kind,
          changeover := .running (1000 * s.siding.config.changeoverTime) } })
      ∧ (¬granted → e.kind = s.comp.position ∨ s.comp.mode ≠ .idle → s.examine = s))

/-- A grant (R98, R99, R12, R16, R17): the entry leaves, the spot holds its share and enters TRANSFER or STRIP with its
timers and its valves commanded open; with no TRANSFER time left it goes on to PURGE and holds nothing. The model's
choice (log 22): the release that the zero time makes starts no examination of its own. -/
def Obligations.GrantsMoveTheHeadSpot : Prop :=
  ∀ (s : State) (e : QueueEntry) (rest : List QueueEntry),
    let n := e.spot
    let u := s.grant e rest
    let window : Timer := .running s.siding.config.window
    let granted : Compressor := { s.comp with
      queue := rest, mode := .push, pushGrantAge := some 0, age := .running 1000,
      pushHolders := allSpots.filter fun k => k = n ∨ k ∈ s.comp.pushHolders,
      spacing := if s.siding.config.startSpacing = 0 then .stopped
        else .running (1000 * s.siding.config.startSpacing) }
    LinkOf s.link u.link [n]
    ∧ (e.kind = .push → (s.spot n).limitMs ≠ 0 →
      u.comp = granted
      ∧ (u.spot n).state = .transfer ∧ (u.spot n).window = window ∧ (u.spot n).limitRunning = true
      ∧ (u.spot n).limitMs = (s.spot n).limitMs ∧ (u.spot n).endReason = (s.spot n).endReason
      ∧ KeepsCar (s.spot n) (u.spot n) ∧ OpensValves s u n ⟨true, true⟩
      ∧ u.meter n = { s.meter n with heelCountdown := (s.spot n).config.heelWindows }
      ∧ Course s u ∧ ∀ k, k ≠ n → u.spot k = s.spot k ∧ u.meter k = s.meter k)
    ∧ (e.kind = .push → (s.spot n).limitMs = 0 →
      (u.spot n).state = .purge ∧ (u.spot n).endReason = some .timeLimit ∧ HoldsNothing u.comp n
      ∧ u.comp = granted.released [n] ∧ (u.spot n).valveL = .closing ∧ (u.spot n).valveV = .closing
      ∧ StopsMoving (u.spot n) ∧ KeepsCar (s.spot n) (u.spot n)
      ∧ Course s u ∧ ∀ k, k ≠ n → u.spot k = s.spot k ∧ u.meter k = s.meter k)
    ∧ (e.kind = .pull →
      u.comp = { s.comp with queue := rest, pullHolder := some n, mode := .pull }
      ∧ (u.spot n).state = .strip ∧ (u.spot n).window = window
      ∧ (u.spot n).strip = .running (1000 * (s.spot n).config.stripLimit)
      ∧ (u.spot n).endReason = (s.spot n).endReason
      ∧ KeepsCar (s.spot n) (u.spot n) ∧ OpensValves s u n ⟨false, true⟩ ∧ u.meter n = s.meter n
      ∧ Course s u ∧ ∀ k, k ≠ n → u.spot k = s.spot k ∧ u.meter k = s.meter k)

/-! ## Grades, siding configuration and mode -/

/-- GRADE_LOAD (R85, R86, R87): the first item to fail, in the order of R85, is answered RANGE with its code and the
breakpoint's number; a grade whose car stands at a spot is BUSY with those spots; else the record is replaced whole. -/
def Obligations.GradeLoadJudgesInOrder : Prop :=
  ∀ (tag : Byte) (body : List Byte) (s : State),
    let count := num1 body 17
    let temp (k : Nat) : Int := int2 body (18 + 4 * k)
    let dens (k : Nat) : Nat := num2 body (18 + 4 * k + 2)
    let points : List (Bool × Nat × Nat) := (List.range count).flatMap fun k =>
      [(temp k < -5000 || 6000 < temp k, 4, k + 1), (dens k < 40000 || 65000 < dens k, 5, k + 1),
        (0 < k && temp k ≤ temp (k - 1), 6, k + 1)]
    let before : List (Bool × Nat × Nat) :=
      [(3 < num1 body 0, 1, 0), (readChars 8 body 1 = none, 2, 0), (count < 2 || 16 < count, 3, 0)]
    let after : List (Bool × Nat × Nat) :=
      [(3 < num1 body 10, 7, 0), (num2 body 11 < 100 || 20000 < num2 body 11, 8, 0),
        (num2 body 13 < 150 || 800 < num2 body 13, 9, 0), (num2 body 15 < 700 || 2600 < num2 body 15, 10, 0),
        (num2 body 15 ≤ num2 body 13, 11, 0)]
    let failed := before ++ points ++ after
    body.length = 18 + 4 * count →
    (∀ f, failed.find? (fun x => x.1) = some f → exec (.gradeLoad tag body) s =
      .next (s.answer 0x0F tag .range [BitVec.ofNat 8 f.2.1, BitVec.ofNat 8 f.2.2]))
    ∧ (failed.find? (fun x => x.1) = none → ∃ (g : GradeNo) (label : List Byte),
      g.val = num1 body 0 ∧ readChars 8 body 1 = some label
      ∧ let users := allSpots.filter fun n => (s.spot n).car.map CarRecord.grade = some g
        (users ≠ [] → exec (.gradeLoad tag body) s = .next (s.answer 0x0F tag .busy [spotSetByte users]))
        ∧ (users = [] → exec (.gradeLoad tag body) s =
          .next ((s.setGrade g
            { label := label
              breakpoints := (List.range count).map fun k => ⟨temp k, dens k⟩
              rounding := [RoundingMode.nearestEven, .towardZero, .up, .down].getD (num1 body 10) .nearestEven
              heelFlow := num2 body 11
              stripEnd := num2 body 13
              maxPressure := num2 body 15 }).answer 0x0F tag .ok
            (BitVec.ofNat 8 g.val :: charField 8 label ++ [BitVec.ofNat 8 count]))))

/-- The density lookup: the first density at or below the first temperature, the last at or above the last, and between
two neighbours the straight line through them with its quotient truncated toward zero (R79). -/
def Obligations.DensityIsInterpolated : Prop :=
  ∀ points : List Breakpoint, points.Pairwise (fun p q => p.temp < q.temp) → ∀ t : Int,
    (∀ first rest, points = first :: rest → t ≤ first.temp → density points t = first.density)
    ∧ (∀ before last, points = before ++ [last] → last.temp ≤ t → density points t = last.density)
    ∧ (∀ before lo hi after, points = before ++ lo :: hi :: after → lo.temp ≤ t → t < hi.temp →
      (density points t : Int) =
        lo.density + Int.tdiv (((hi.density : Int) - lo.density) * (t - lo.temp)) (hi.temp - lo.temp))

/-- SIDING_CONFIG (R195, R129): the first field to fail is answered RANGE with its place; a working spot makes it BUSY;
else it takes effect, and where the proof interval changed, a CURRENT record that has reached it becomes DUE. -/
def Obligations.SidingConfigJudgesInOrder : Prop :=
  ∀ (tag : Byte) (body : List Byte) (s : State), body.length = 9 →
    let c : SidingConfig :=
      { window := num2 body 0, startSpacing := num1 body 2, changeoverTime := num1 body 3,
        proofInterval := num2 body 4, leadTime := num1 body 6, proofStep := num2 body 7 }
    let failed : List (Bool × Nat) :=
      [(c.window < 500 || 2000 < c.window || c.window % 250 != 0, 1), (120 < c.startSpacing, 2),
        (c.changeoverTime < 5 || 120 < c.changeoverTime, 3), (c.proofInterval < 1 || 720 < c.proofInterval, 4),
        (72 < c.leadTime, 5), (c.proofStep < 10 || 600 < c.proofStep, 6), (c.proofInterval ≤ c.leadTime, 5)]
    let working := allSpots.filter fun n =>
      (s.spot n).state ∈ [SpotState.startWait, .transfer, .stripWait, .strip, .held, .purge]
    (∀ f, failed.find? (fun x => x.1) = some f →
      exec (.sidingConfig tag body) s = .next (s.answer 0x11 tag .range [BitVec.ofNat 8 f.2]))
    ∧ (failed.find? (fun x => x.1) = none →
      (working ≠ [] → exec (.sidingConfig tag body) s = .next (s.answer 0x11 tag .busy [spotSetByte working]))
      ∧ (working = [] → ∃ u : State, exec (.sidingConfig tag body) s = .next (u.answer 0x11 tag .ok [])
        ∧ u = { s with
            siding := { s.siding with config := c }, proof := { s.proof with records := u.proof.records } }
        ∧ ∀ v, u.proofRecord v =
          if c.proofInterval ≠ s.siding.config.proofInterval ∧ (s.proofRecord v).state = .current
              ∧ c.proofInterval ≤ (s.proofRecord v).elapsed then
            { s.proofRecord v with state := .due }
          else s.proofRecord v))

/-- SIDING_MODE (R121 to R124): a mode above 2 is refused RANGE, the present mode is OK with no change; RUN examines the
queue head; QUIET changes the mode alone; SHUT makes every waiting or moving spot HELD with SIDING_SHUT, and their
shares and queue entries go (R20, R99, R100). -/
def Obligations.SidingModeActsOnSpots : Prop :=
  ∀ (tag b : Byte) (s : State),
    let old : Byte := BitVec.ofNat 8 s.siding.mode.code
    let holdable : List SpotNo := allSpots.filter fun n =>
      (s.spot n).state ∈ [SpotState.startWait, .transfer, .stripWait, .strip]
    (2 < b.toNat → exec (.sidingMode tag [b]) s = .next (s.answer 0x12 tag .range []))
    ∧ (b.toNat = s.siding.mode.code → exec (.sidingMode tag [b]) s = .next (s.answer 0x12 tag .ok [b, b, 0]))
    ∧ (b.toNat = 0 → s.siding.mode ≠ .run → exec (.sidingMode tag [b]) s =
      .next ((({ s with siding := { s.siding with mode := .run } } : State).examine).answer 0x12 tag .ok [0, old, 0]))
    ∧ (b.toNat = 1 → s.siding.mode ≠ .quiet → exec (.sidingMode tag [b]) s =
      .next (({ s with siding := { s.siding with mode := .quiet } } : State).answer 0x12 tag .ok [1, old, 0]))
    ∧ (b.toNat = 2 → s.siding.mode ≠ .shut → ∃ u,
      exec (.sidingMode tag [b]) s = .next (u.answer 0x12 tag .ok [2, old, spotSetByte holdable])
      ∧ u.siding = { s.siding with mode := .shut }
      ∧ (∀ n ∈ holdable, BecomesHeld s u n .sidingShut)
      ∧ (∀ n, n ∉ holdable → u.spot n = s.spot n ∧ u.meter n = s.meter n)
      ∧ u.pending = s.pending ∧ u.line = s.line ∧ u.manifest = s.manifest ∧ u.grades = s.grades
      ∧ u.proof = s.proof ∧ u.tickets = s.tickets ∧ u.comp = s.comp.released holdable
      ∧ LinkOf s.link u.link holdable)

/-! ## Proof requests, ticket release, restart -/

/-- PROOF_REQUEST (R142, R133, R31): the index, the spot present, no stroke in flight, the spot VACANT, both its valves
CLOSED, its station ONLINE, the siding stop inactive; then the stroke starts. -/
def Obligations.ProofRequestChecksInOrder : Prop :=
  ∀ (tag b : Byte) (s : State),
    (11 < b.toNat → exec (.proofRequest tag [b]) s = .next (s.answer 0x13 tag .range []))
    ∧ ∀ v : ValveIndex, b.toNat = v.val →
      let n := valveSpot v
      ((s.spot n).config.present = false →
        exec (.proofRequest tag [b]) s = .next (s.answer 0x13 tag .range []))
      ∧ ((s.spot n).config.present = true →
        (∀ k, s.proof.stroke = some k →
          exec (.proofRequest tag [b]) s = .next (s.answer 0x13 tag .busy [BitVec.ofNat 8 k.valve.val]))
        ∧ (s.proof.stroke = none →
          ((s.spot n).state ≠ .vacant ∨ (s.spot n).valveL ≠ .closed ∨ (s.spot n).valveV ≠ .closed →
            exec (.proofRequest tag [b]) s = .next (s.answer 0x13 tag .busy []))
          ∧ ((s.spot n).state = .vacant → (s.spot n).valveL = .closed → (s.spot n).valveV = .closed →
            ((s.station n).status ≠ .online → exec (.proofRequest tag [b]) s =
              .next (s.answer 0x13 tag .notPermitted [BitVec.ofNat 8 (s.station n).status.code]))
            ∧ ((s.station n).status = .online →
              (s.siding.stopActive = true →
                exec (.proofRequest tag [b]) s = .next (s.answer 0x13 tag .notPermitted []))
              ∧ (s.siding.stopActive = false → ∃ u : State, StartsStroke s u v .request
                ∧ exec (.proofRequest tag [b]) s =
                  .next (u.answer 0x13 tag .ok (b :: leBytes 2 (strokeLimitOf s v))))))))

/-- TICKET_RELEASE (R178, R179): EMPTY; UNKNOWN with the oldest number where another is named; else the oldest ticket
leaves, the oldest on the wait list is admitted, and its spot enters COMPLETE, or VACANT where ARMS is false. -/
def Obligations.TicketReleaseAdmitsTheOldestWaiting : Prop :=
  ∀ (tag : Byte) (body : List Byte) (s : State), body.length = 4 →
    (s.tickets.queue = [] → exec (.ticketRelease tag body) s = .next (s.answer 0x16 tag .empty []))
    ∧ ∀ oldest rest, s.tickets.queue = oldest :: rest →
      (num4 body 0 ≠ oldest.number →
        exec (.ticketRelease tag body) s = .next (s.answer 0x16 tag .unknown (leBytes 4 oldest.number)))
      ∧ (num4 body 0 = oldest.number →
        (s.tickets.wait = [] → exec (.ticketRelease tag body) s =
          .next (({ s with tickets := { s.tickets with queue := rest } } : State).answer 0x16 tag .ok
            (leBytes 4 oldest.number ++ [BitVec.ofNat 8 rest.length, 0, 0, 0, 0, 0, 0])))
        ∧ ∀ w waiting, s.tickets.wait = w :: waiting →
          let t : State := { s with tickets := { s.tickets with queue := rest ++ [w.ticket], wait := waiting } }
          let result := leBytes 4 oldest.number ++ [BitVec.ofNat 8 (rest.length + 1), 1, BitVec.ofNat 8 w.spot.val]
            ++ leBytes 4 w.ticket.number
          ((s.station w.spot).inputs.arms = true → exec (.ticketRelease tag body) s =
            .next ((t.setSpot w.spot { s.spot w.spot with state := .complete }).answer 0x16 tag .ok result))
          ∧ ((s.station w.spot).inputs.arms = false → exec (.ticketRelease tag body) s =
            .next ((t.setSpot w.spot (s.spot w.spot).toVacant).answer 0x16 tag .ok result)))

/-- RESTART (R196, R197, R127, R138, R152, R165): BUSY while a ticket is queued or a metered car stands before its
ticket; else every block takes its Restart values, and an INITIALIZE is queued for each present station. -/
def Obligations.RestartTakesRestartValues : Prop :=
  ∀ (tag : Byte) (s : State),
    let blockers := allSpots.filter fun n =>
      (s.spot n).state ∈ [SpotState.startWait, .transfer, .stripWait, .strip, .held, .purge, .tripped]
        ∧ (0 < (s.meter n).windowsCounted ∨ (s.spot n).endReason ≠ none)
    (s.tickets.queue ≠ [] ∨ blockers ≠ [] → exec (.restart tag []) s =
      .next (s.answer 0x18 tag .busy [BitVec.ofNat 8 s.tickets.queue.length, spotSetByte blockers]))
    ∧ (s.tickets.queue = [] → blockers = [] → ∃ u : State, exec (.restart tag []) s = .next (u.answer 0x18 tag .ok [])
      ∧ u.manifest = [] ∧ u.grades = s.grades ∧ u.tickets = s.tickets ∧ u.choices = s.choices
      ∧ u.pending = s.pending ∧ u.line = s.line
      ∧ u.siding = { s.siding with mode := .shut }
      ∧ u.comp = Compressor.fresh s.comp.position
      ∧ (∀ n, u.spot n = SpotRecord.fresh (s.spot n).config ∧ u.meter n = Meter.fresh
        ∧ u.station n = { s.station n with
            status := if (s.spot n).config.present then .unknown else .absent, misses := 0, ackOutstanding := none,
            recovery := .stopped })
      ∧ u.proof = { s.proof with
          stroke := none, stepTimer := .running (1000 * s.siding.config.proofStep), records := u.proof.records }
      ∧ (∀ v, u.proofRecord v =
          if s.proof.stroke.map Stroke.valve = some v then { s.proofRecord v with lastResult := some .aborted }
          else s.proofRecord v)
      ∧ u.link.mask = s.link.mask ∧ u.link.attentionLine = s.link.attentionLine ∧ u.link.pollHoldOff = .stopped
      ∧ u.link.inFlight = s.link.inFlight.map (fun f => { f with mark := .dropped })
      ∧ ∃ polls, u.link.entries =
          ((allSpots.filter fun n => (s.spot n).config.present).map fun n => ⟨some n, .initStation false, .stopped⟩)
            ++ polls
        ∧ (polls = [] ∨ polls = [⟨none, .attentionPoll, .stopped⟩])
        ∧ (polls ≠ [] ↔ s.link.attentionLine = true ∧ ∀ f, s.link.inFlight = some f →
            ¬(f.entry.station = none ∧ f.entry.txn = .attentionPoll) ∧ f.entry.txn ≠ .clear
              ∧ ∀ m, f.entry.txn = .sampleRead m → m.attention = false))

/-! ## Inputs of the siding -/

/-- SIDING_STOP_ACTIVE and SIDING_STOP_CLEAR (R125, R113, R115, R137, R138): every armed spot trips on SIDING_STOP, a
TRIPPED one adds it, a stroke in flight is ABORTED with a CLOSE, every other spot is untouched; clearing changes the
state of the input alone. No share and no queue entry is left. A spot's cause set is SIDING_STOP with the level causes
present (R113); a waiting spot with no TRANSFER time left can be granted on the way, and so end its liquid phase before
it trips. The model's choice (log 16): a repeated SIDING_STOP_ACTIVE changes nothing. -/
def Obligations.SidingStopTripsArmedSpots : Prop :=
  ∀ s : State,
    exec .sidingStopClear s = .next { s with siding := { s.siding with stopActive := false } }
    ∧ (s.siding.stopActive = true → exec .sidingStopActive s = .next s)
    ∧ (s.siding.stopActive = false → SharesFollowStates s → ∃ u : State, exec .sidingStopActive s = .next u
      ∧ u.siding = { s.siding with stopActive := true }
      ∧ (∀ n, (s.spot n).state ∈
            [SpotState.connected, .ready, .startWait, .transfer, .stripWait, .strip, .held, .purge] →
          (u.spot n).state = .tripped ∧ (u.spot n).resumePhase = none ∧ (u.spot n).holdReason = none
          ∧ StopsMoving (u.spot n) ∧ (u.spot n).settle = .stopped ∧ (u.spot n).purge = .stopped
          ∧ HoldsNothing u.comp n ∧ KeepsCar (s.spot n) (u.spot n)
          ∧ (u.spot n).openDeferred = ⟨false, false⟩
          ∧ (u.spot n).valveL ∈ [ValveCommand.closed, .closing]
          ∧ (u.spot n).valveV ∈ [ValveCommand.closed, .closing]
          ∧ ∃ t, (u.spot n).trip = some t ∧ t.firstOut = .sidingStop
            ∧ (∀ c, c.isLevel = true → s.causePresent n c = true ∨ c = .sidingStop → c ∈ t.causes)
            ∧ ((s.spot n).state ≠ .startWait ∨ (s.spot n).limitMs ≠ 0 → t.causes =
                TripCause.all.filter fun c => c = .sidingStop ∨ (c.isLevel = true ∧ s.causePresent n c = true)))
      ∧ (∀ n, (s.spot n).state = .tripped → s.strokeOn n = false → u.meter n = s.meter n
          ∧ u.spot n = { s.spot n with
              trip := (s.spot n).trip.map fun t =>
                ⟨t.firstOut, TripCause.all.filter fun c => c ∈ t.causes ∨ c = .sidingStop⟩ })
      ∧ (∀ n, (s.spot n).state ∈ [SpotState.vacant, .assigned, .ticketWait, .complete] → s.strokeOn n = false →
          u.spot n = s.spot n ∧ u.meter n = s.meter n)
      ∧ u.proof.stroke = none
      ∧ (∀ v, u.proofRecord v =
          if s.proof.stroke.map Stroke.valve = some v then { s.proofRecord v with lastResult := some .aborted }
          else s.proofRecord v)
      ∧ (∀ k, s.proof.stroke = some k → (s.spot (valveSpot k.valve)).state = .vacant →
          u.spot (valveSpot k.valve) = (s.spot (valveSpot k.valve)).setValve (valveSideOf k.valve) .closed
          ∧ ((s.station (valveSpot k.valve)).status.takesRequests = true →
              u.link.hasPending (some (valveSpot k.valve)) .close = true))
      ∧ u.comp.queue = [] ∧ u.comp.pushHolders = [] ∧ u.comp.pullHolder = none
      ∧ (u.comp.mode = .idle ∨ u.comp.mode = .changeover) ∧ u.comp.position = s.comp.position
      ∧ u.pending = s.pending ∧ u.line = s.line ∧ u.manifest = s.manifest ∧ u.grades = s.grades
      ∧ u.tickets = s.tickets
      ∧ LinkOf s.link u.link (allSpots.filter fun n => (s.spot n).state.armed = true ∨ s.strokeOn n = true))

/-- The compressor inputs (R97, R101, R102): a fault makes every moving spot HELD with COMPRESSOR, their shares go, and a
changeover is abandoned, with the position as it was, or, where the changeover's expiry is owed at the same moment and
is taken first, at the target; its end examines the queue head; the run input's level is held and nothing depends on
it. The model's choices: a repeated COMPRESSOR_FAULT_ACTIVE and a COMPRESSOR_FAULT_CLEAR with no fault change nothing
(log 16); which of a fault and an expiry owed with it comes first is free (log 33). -/
def Obligations.CompressorInputsAct : Prop :=
  ∀ s : State,
    (∀ level, exec (.compressorRunChange level) s = .next { s with siding := { s.siding with runInput := level } })
    ∧ (s.siding.faultActive = true → exec .compressorFaultActive s = .next s
      ∧ exec .compressorFaultClear s =
        .next ({ s with siding := { s.siding with faultActive := false } } : State).examine)
    ∧ (s.siding.faultActive = false → exec .compressorFaultClear s = .next s
      ∧ ∃ u : State, exec .compressorFaultActive s = .next u
        ∧ u.siding = { s.siding with faultActive := true }
        ∧ (∀ n, (s.spot n).state = .transfer ∨ (s.spot n).state = .strip → BecomesHeld s u n .compressor)
        ∧ (∀ n, (s.spot n).state ≠ .transfer → (s.spot n).state ≠ .strip →
            u.spot n = s.spot n ∧ u.meter n = s.meter n)
        ∧ (s.comp.mode ≠ .changeover ∨ s.comp.changeover ≠ .running 0 → u.comp.position = s.comp.position)
        ∧ (∃ position, (position = s.comp.position
              ∨ (s.comp.changeover = .running 0 ∧ s.comp.target = some position))
            ∧ u.comp = Compressor.released (if s.comp.mode = .changeover then
                { s.comp with mode := .idle, position := position, target := none, changeover := .stopped }
                else s.comp)
              (allSpots.filter fun n => (s.spot n).state = .transfer ∨ (s.spot n).state = .strip))
        ∧ u.comp.spacing = s.comp.spacing
        ∧ u.comp.pushGrantAge = s.comp.pushGrantAge ∧ u.comp.age = s.comp.age
        ∧ (s.comp.mode = .changeover →
            u.comp.mode = .idle ∧ u.comp.target = none ∧ u.comp.changeover = .stopped)
        ∧ u.comp.queue =
            s.comp.queue.filter (fun e => (s.spot e.spot).state ≠ .transfer ∧ (s.spot e.spot).state ≠ .strip)
        ∧ u.pending = s.pending ∧ u.line = s.line ∧ u.manifest = s.manifest ∧ u.grades = s.grades
        ∧ u.proof = s.proof ∧ u.tickets = s.tickets
        ∧ LinkOf s.link u.link
            (allSpots.filter fun n => (s.spot n).state = .transfer ∨ (s.spot n).state = .strip))

/-! ## Timers of a spot

Here and below, two things are the model's choice and no rule of the spec: an expiry of a timer that does not run changes
nothing (log 4), and one of a timer that runs is taken whatever time remains (log 5). -/

/-- The settle, transfer-limit and strip timers (R7, R16, R18): CONNECTED goes to READY; the transfer limit ends the
liquid phase with TIME_LIMIT; the strip limit ends the strip with STRIPPED and STRIP_TIMEOUT. The model's choices: a
stopped timer's expiry changes nothing (log 4); a running one's is taken whatever time remains (log 5). -/
def Obligations.SpotTimersMoveTheSpotOn : Prop :=
  ∀ (n : SpotNo) (s : State),
    let r := s.spot n
    (r.settle = .stopped → exec (.settleTimerExpiry n) s = .next s)
    ∧ (r.settle ≠ .stopped → exec (.settleTimerExpiry n) s = .next (s.setSpot n
      { r with settle := .stopped, state := if r.state = .connected then .ready else r.state }))
    ∧ (r.limitRunning = false → exec (.transferLimitExpiry n) s = .next s)
    ∧ (r.limitRunning = true → ∃ u : State, exec (.transferLimitExpiry n) s = .next u
      ∧ EntersPurge (s.setSpot n { r with limitMs := 0 }) u n (some .timeLimit))
    ∧ (r.strip = .stopped → exec (.stripTimerExpiry n) s = .next s)
    ∧ (r.strip ≠ .stopped → ∃ u : State, exec (.stripTimerExpiry n) s = .next u
      ∧ EntersPurge (s.setSpot n { r with seqFlags := ⟨r.seqFlags.bypassUsed, true, true⟩ }) u n none)

/-- The window timer in TRANSFER and STRIP (R13, R50, R52, R154): it is reloaded and the window counted; its read is
asked for; while one is outstanding, or the station is LOST, the window is computed at once as an estimated one. The
model's choices: a stopped timer's expiry changes nothing (log 4); a running one's is taken whatever time remains
(log 5). -/
def Obligations.WindowTimerClosesAWindow : Prop :=
  ∀ (n : SpotNo) (s : State),
    let r := s.spot n
    let period := s.siding.config.window
    let phase : Phase := if r.state = .strip then .strip else .transfer
    let counted : Meter := { s.meter n with windowsCounted := min ((s.meter n).windowsCounted + 1) 4294967295 }
    let b := s.setSpot n { r with window := .running period }
    (r.window = .stopped → exec (.windowTimerExpiry n) s = .next s)
    ∧ (r.window ≠ .stopped → r.state = .transfer ∨ r.state = .strip →
      ((s.meter n).windowRead = none → (s.station n).status ≠ .lost →
        exec (.windowTimerExpiry n) s =
          .next ((b.setMeter n { counted with windowRead := some ⟨phase, period⟩ }).request n
            (.sampleRead ⟨some phase, false, false⟩)))
      ∧ ((s.meter n).windowRead ≠ none ∨ (s.station n).status = .lost →
        let c := counted.computeWindow r.config (s.carGrade n) (r.car.bind CarRecord.targetMass) ⟨phase, period⟩ 0
          true none
        ∃ m u : State, exec (.windowTimerExpiry n) s = .next u
          ∧ SequencerTakes (b.setMeter n c.1) m n (if c.1.heldRun = 5 then [.sensorFault] else [])
          ∧ OutcomeTaken m u n c.2))

/-- The purge timer (R23, R25, R167 to R174): with the closing read settled the ticket is built from the records, placed
in the queue while it holds fewer than 16 and else on the wait list, and the spot goes on; else it waits. The model's
choices: a stopped timer's expiry changes nothing (log 4); a running one's is taken whatever time remains (log 5); the
rounding mode of a grade that is not loaded is free (log 14). -/
def Obligations.PurgeEndBuildsTheTicket : Prop :=
  ∀ (n : SpotNo) (s : State),
    let r := s.spot n
    let m := s.meter n
    let expired : SpotRecord := { r with purge := .stopped, purgeExpired := true }
    (r.purge = .stopped → exec (.purgeTimerExpiry n) s = .next s)
    ∧ (r.purge ≠ .stopped → r.state ≠ .purge ∨ r.closingRead ≠ .settled →
      exec (.purgeTimerExpiry n) s = .next (s.setSpot n expired))
    ∧ (r.purge ≠ .stopped → r.state = .purge → r.closingRead = .settled →
      ∀ c reason, r.car = some c → r.endReason = some reason →
      ∃ mode : RoundingMode, (∀ g, s.grade c.grade = some g → mode = g.rounding)
        ∧ let net := roundNet mode ((m.liquid : Int) - m.vapourReturned + m.vapourRecovered)
          let ticket : Ticket :=
            { number := s.tickets.serial, carId := c.carId, grade := c.grade, spot := n, volume := m.volume,
              liquid := m.liquid, vapourReturned := m.vapourReturned, vapourRecovered := m.vapourRecovered,
              netKg := net, windows := m.windowsCounted, estimatedWindows := m.estimatedWindows,
              transferTime := (1000 * r.config.transferLimit - r.limitMs) / 1000, endReason := reason,
              flags := ⟨m.flags, r.seqFlags, decide (net < 0)⟩,
              declared := c.declaredMass.map fun kg => ⟨kg, kg - net⟩ }
          let serial := if s.tickets.serial = 4294967295 then 1 else s.tickets.serial + 1
          let left : SpotRecord := { expired with car := none }
          (s.tickets.queue.length < 16 → exec (.purgeTimerExpiry n) s =
            .next (({ s with tickets := { s.tickets with
                serial := serial, queue := s.tickets.queue ++ [ticket] } } : State).setSpot n
              (if (s.station n).inputs.arms then { left with state := .complete } else left.toVacant)))
          ∧ (16 ≤ s.tickets.queue.length → exec (.purgeTimerExpiry n) s =
            .next (({ s with tickets := { s.tickets with
                serial := serial, wait := s.tickets.wait ++ [⟨n, ticket⟩] } } : State).setSpot n
              { left with state := .ticketWait })))

/-- The travel timer of a valve (R30, R107, R112, R113, R115, R130): it stops; where the valve is still travelling, its
proof is FAILED by TRAVEL, an armed spot trips on VALVE_FAULT, and a TRIPPED one adds it. The model's choices: a stopped
timer's expiry changes nothing (log 4); a running one's is taken whatever time remains (log 5). -/
def Obligations.TravelExpiryIsAValveFault : Prop :=
  ∀ (n : SpotNo) (side : ValveSide) (s : State),
    let r := s.spot n
    let b := s.setSpot n (r.setTravel side .stopped)
    let failed := b.setProofRecord (valveIndex n side)
      { s.proofRecord (valveIndex n side) with state := .failed, faultSource := some .travel }
    (r.travel side = .stopped → exec (.travelTimerExpiry n side) s = .next s)
    ∧ (r.travel side ≠ .stopped → r.valve side = .closed ∨ r.valve side = .opened →
      exec (.travelTimerExpiry n side) s = .next b)
    ∧ (r.travel side ≠ .stopped → r.valve side = .opening ∨ r.valve side = .closing →
      (r.state.armed = true → ∃ u : State, exec (.travelTimerExpiry n side) s = .next u
        ∧ EntersTripped failed u n ⟨.valveFault,
            TripCause.all.filter fun c => c = .valveFault ∨ (c.isLevel = true ∧ s.causePresent n c = true)⟩)
      ∧ (r.state = .tripped → exec (.travelTimerExpiry n side) s =
        .next (failed.setSpot n { r.setTravel side .stopped with
          trip := r.trip.map fun t =>
            ⟨t.firstOut, TripCause.all.filter fun c => c ∈ t.causes ∨ c = .valveFault⟩ }))
      ∧ (r.state.armed = false → r.state ≠ .tripped → exec (.travelTimerExpiry n side) s = .next failed))

/-! ## Timers of the compressor, the proof scheduler and the link scheduler -/

/-- The spacing, changeover and age timers (R89, R97, R99): the first two let the queue head be examined, the second
after the position has become the target; the third ages the last push grant. The model's choices: a stopped timer's
expiry changes nothing (log 4); a running one's is taken whatever time remains (log 5); where a changeover timer runs
with no target, which no run reaches, the position stays (log 34). -/
def Obligations.CompressorTimersAct : Prop :=
  ∀ s : State,
    exec .spacingTimerExpiry s = .next (if s.comp.spacing = .stopped then s
      else ({ s with comp := { s.comp with spacing := .stopped } } : State).examine)
    ∧ (s.comp.changeover = .stopped → exec .changeoverTimerExpiry s = .next s)
    ∧ (s.comp.changeover ≠ .stopped → ∀ target, s.comp.target = some target → exec .changeoverTimerExpiry s =
      .next ({ s with comp := { s.comp with
        mode := .idle, position := target, target := none, changeover := .stopped } } : State).examine)
    ∧ (s.comp.changeover ≠ .stopped → s.comp.target = none → exec .changeoverTimerExpiry s =
      .next ({ s with comp := { s.comp with mode := .idle, changeover := .stopped } } : State).examine)
    ∧ exec .ageTimerExpiry s = .next (if s.comp.age = .stopped then s
      else { s with comp := { s.comp with
        pushGrantAge := s.comp.pushGrantAge.map fun a => min (a + 1) 65534, age := .running 1000 } })

/-- The hour timer ages every proof record and makes a CURRENT one DUE at the interval (R128, R129); the step timer
moves the cursor and starts a stroke on the valve it left, where that is eligible and R132's conditions hold (R139,
R140). The model's choices: a stopped timer's expiry changes nothing (log 4); a running one's is taken whatever time
remains (log 5). -/
def Obligations.ProofTimersAct : Prop :=
  ∀ s : State,
    let v := s.proof.cursor
    let n := valveSpot v
    let p := s.proofRecord v
    let moved : State := { s with proof := { s.proof with
      stepTimer := .running (1000 * s.siding.config.proofStep), cursor := v + 1 } }
    let eligible := p.state ≠ .current ∨ s.siding.config.proofInterval ≤ p.elapsed + s.siding.config.leadTime
    let may := (s.spot n).config.present = true ∧ (s.spot n).state = .vacant ∧ s.proof.stroke = none
      ∧ (s.spot n).valveL = .closed ∧ (s.spot n).valveV = .closed ∧ (s.station n).status = .online
      ∧ s.siding.stopActive = false
    (s.proof.hourTimer = .stopped → exec .hourTimerExpiry s = .next s)
    ∧ (s.proof.hourTimer ≠ .stopped → ∃ u : State, exec .hourTimerExpiry s = .next u
      ∧ u = { s with proof := { s.proof with hourTimer := .running 3600000, records := u.proof.records } }
      ∧ ∀ w, u.proofRecord w =
        let age := min ((s.proofRecord w).elapsed + 1) 65535
        { s.proofRecord w with
          elapsed := age
          state := if (s.proofRecord w).state = .current ∧ s.siding.config.proofInterval ≤ age then .due
            else (s.proofRecord w).state })
    ∧ (s.proof.stepTimer = .stopped → exec .proofStepTimerExpiry s = .next s)
    ∧ (s.proof.stepTimer ≠ .stopped →
      (eligible ∧ may → ∃ u : State, exec .proofStepTimerExpiry s = .next u ∧ StartsStroke moved u v .cursor)
      ∧ (¬(eligible ∧ may) → exec .proofStepTimerExpiry s = .next moved))

/-- A stroke ends by its timer (R136, R137) or by a DONE reply to its STROKE (R134, R135, R137): the record becomes
FAILED, or CURRENT by the travel time against the limit and twice the limit; a CLOSE follows a failure. The DONE of a
STROKE that was withdrawn at the end of its stroke ends no other (R137, R151). The model's choices: with no stroke, or a
stopped stroke timer, the expiry changes nothing (log 4), a running one's is taken whatever time remains (log 5), and the
sequencer takes the reply before the stroke is judged (log 12). -/
def Obligations.StrokesEnd : Prop :=
  ∀ s : State,
    (s.proof.stroke = none → exec .strokeTimerExpiry s = .next s)
    ∧ (∀ k, s.proof.stroke = some k →
      (k.timer = .stopped → exec .strokeTimerExpiry s = .next s)
      ∧ (k.timer ≠ .stopped → ∃ u : State, exec .strokeTimerExpiry s = .next u
        ∧ EndsStroke s u k
          { s.proofRecord k.valve with
            state := .failed, lastResult := some .fail, lastTravel := none, faultSource := some .stroke } True))
    ∧ ∀ (n : SpotNo) (side : ValveSide) (flags : Byte) (data : List Byte) (f : InFlight),
      Awaits s f n (.stroke side) → data.length = 2 → flags.getLsbD 0 = true →
      let reply := Instr.strokeReply (linkReplyFrame n .stroke flags data)
      let heard := s.hears n
        { s.station n with misses := 0, status := if flags.getLsbD 2 then .localOp else .online }
      let brought := causesRisen s heard n
      (flags.getLsbD 1 = false → ∃ u : State, exec reply s = .next u
        ∧ SequencerTakes (heard.joinsAgain f n (.stroke side) (.running 100)) u n brought)
      ∧ (flags.getLsbD 1 = true → ∃ m : State, SequencerTakes heard m n brought
        ∧ (f.mark = .withdrawn ∨ (∀ k, s.proof.stroke = some k → k.valve ≠ valveIndex n side) →
            exec reply s = .next m)
        ∧ ∀ k, f.mark = .live → s.proof.stroke = some k → k.valve = valveIndex n side →
          let time := num2 data 0
          ∃ u : State, exec reply s = .next u ∧ EndsStroke m u k
            (if time ≤ k.limit then ⟨.current, 0, some .pass, some time, none⟩
              else if time ≤ 2 * k.limit then ⟨.current, 0, some .slow, some time, none⟩
              else { s.proofRecord k.valve with
                state := .failed, lastResult := some .fail, lastTravel := some time, faultSource := some .stroke })
            (2 * k.limit < time))

/-- The timers of the link scheduler (R150, R154, R162): a hold-off ends, and on a free link the entry then selected is
sent; the poll hold-off ends and R162 is judged; the recovery timer queues an INITIALIZE. The model's choices: an expiry
of a timer or a hold-off that does not run changes nothing (log 4); a running one's is taken whatever time remains
(log 5). -/
def Obligations.LinkTimersAct : Prop :=
  ∀ s : State,
    (∀ (n : SpotNo) (kind : LinkKind),
      let held (e : LinkEntry) : Bool := e.station == some n && e.txn.kind == kind
      let ended : Link := { s.link with
        entries := s.link.entries.map fun e => if held e then { e with holdOff := .stopped } else e }
      ((∀ e ∈ s.link.entries, held e = true → e.holdOff = .stopped) → exec (.holdOffExpiry n kind) s = .next s)
      ∧ ((∃ e ∈ s.link.entries, held e = true ∧ e.holdOff ≠ .stopped) →
        (s.link.inFlight ≠ none ∨ (∀ e ∈ ended.entries, ended.passes e) →
          exec (.holdOffExpiry n kind) s = .next { s with link := ended })
        ∧ (s.link.inFlight = none → ∀ before e after, ended.Selects before e after →
          exec (.holdOffExpiry n kind) s = .next { s with link := { ended with
            entries := before ++ after, inFlight := some ⟨e, .live⟩ } })
        ∧ ∃ t, exec (.holdOffExpiry n kind) s = .next t))
    ∧ (s.link.pollHoldOff = .stopped → exec .pollHoldOffExpiry s = .next s)
    ∧ (s.link.pollHoldOff ≠ .stopped → exec .pollHoldOffExpiry s =
      .next ({ s with link := { s.link with pollHoldOff := .stopped } } : State).judgePoll)
    ∧ ∀ n,
      ((s.station n).recovery = .stopped → exec (.recoveryTimerExpiry n) s = .next s)
      ∧ ((s.station n).recovery ≠ .stopped →
        let b := s.setStation n { s.station n with recovery := .stopped }
        exec (.recoveryTimerExpiry n) s = .next (if (s.station n).status = .absent then b
          else b.join ⟨some n, .initStation false, .stopped⟩))

/-! ## The spot link: joining, selection, misses -/

/-- A transaction that joins the pending list (R148, R149, R151): the entry of its pair takes it and keeps its place, or
it joins at the tail; a request to a station that is ABSENT or LOST is discarded; a CLOSE withdraws the VALVE_OPEN. The
model's choices: a COUNT_ACK that joins a pending one gives it the newer data (log 24); an INITIALIZE that joins a
pending one leaves that one's mark of having been answered (log 20). -/
def Obligations.RequestsJoinThePendingList : Prop :=
  ∀ s : State,
    (∀ e : LinkEntry, s.link.hasPending e.station e.txn.kind = false →
      s.join e = { s with link := { s.link with entries := s.link.entries ++ [e] } })
    ∧ (∀ (e p : LinkEntry) (before after : List LinkEntry), s.link.entries = before ++ p :: after →
        p.samePair e = true → (∀ d ∈ before ++ after, d.samePair e = false) →
      ∃ txn, s.join e = { s with link := { s.link with
          entries := before ++ ⟨p.station, txn, if e.holdOff = .stopped then p.holdOff else e.holdOff⟩ :: after } }
        ∧ (∀ a b, p.txn = .sampleRead a → e.txn = .sampleRead b →
            txn = .sampleRead ⟨a.window.or b.window, a.closing || b.closing, a.attention || b.attention⟩)
        ∧ (∀ a b, p.txn = .valveOpen a → e.txn = .valveOpen b → txn = .valveOpen ⟨a.l || b.l, a.v || b.v⟩)
        ∧ (∀ q a, e.txn = .countAck q a → txn = .countAck q a)
        ∧ (e.txn.kind ∉ [LinkKind.sampleRead, .valveOpen, .countAck] → txn = p.txn))
    ∧ ∀ (n : SpotNo) (t : Txn),
      ((s.station n).status = .absent ∨ (s.station n).status = .lost → s.request n t = s ∧ s.requestClose n = s)
      ∧ ((s.station n).status ≠ .absent → (s.station n).status ≠ .lost →
        s.request n t = s.join ⟨some n, t, .stopped⟩
        ∧ ∃ entries flight, s.requestClose n = { s with link := { s.link with entries := entries, inFlight := flight } }
          ∧ entries = (s.join ⟨some n, .close, .stopped⟩).link.entries.filter
              (fun e => !(e.station == some n && e.txn.kind == .valveOpen))
          ∧ (∀ f, s.link.inFlight = some f → f.entry.station = some n → f.entry.txn.kind = .valveOpen →
              f.mark = .live → flight = some ⟨f.entry, .withdrawn⟩)
          ∧ ((∀ f, s.link.inFlight = some f →
                ¬(f.entry.station = some n ∧ f.entry.txn.kind = .valveOpen ∧ f.mark = .live)) →
              flight = s.link.inFlight))

/-- The selection (R146, R150): with a transaction in flight nothing is sent; else the first entry of the first class,
SAFETY, ATTENTION, SAMPLE, ACTION, of those that are not passed over. -/
def Obligations.SendingSelectsByClass : Prop :=
  ∀ s : State,
    let l := s.link
    let rank (e : LinkEntry) : Nat :=
      match e.txn with
      | .initStation _ | .close => 0
      | .attentionPoll => 1
      | .sampleRead _ | .countAck _ _ => 2
      | .valveOpen _ | .stroke _ | .clear => 3
    let passed (e : LinkEntry) : Prop :=
      e.holdOff ≠ .stopped ∨ ∃ n, e.station = some n
        ∧ ((e.txn.kind ≠ .initStation ∧ l.hasPending (some n) .initStation = true)
          ∨ (e.txn.kind = .sampleRead ∧ (s.station n).ackOutstanding ≠ none)
          ∨ (e.txn.kind = .valveOpen ∧ l.hasPending (some n) .close = true))
    (l.inFlight ≠ none → exec .transactionSend s = .next s)
    ∧ (l.inFlight = none →
      ((∀ e ∈ l.entries, passed e) → exec .transactionSend s = .next s)
      ∧ ∀ before e after, l.entries = before ++ e :: after → ¬passed e →
        (∀ d ∈ before, passed d ∨ rank e < rank d) → (∀ d ∈ after, passed d ∨ rank e ≤ rank d) →
        exec .transactionSend s = .next { s with link := { l with
          entries := before ++ after, inFlight := some ⟨e, .live⟩ } })

/-- A miss (R151, R153, R154, R156): a poll has none; a withdrawn or dropped transaction does not return; one miss or two
send it again, a window read completing as an estimated window; the third, or one of a LOST station, makes the station
LOST, leaves nothing of it on the link, and trips an armed spot on STATION_LOST. The model's choices: a miss of a station
already LOST leaves its misses at 3 and disposes of everything of it again (log 30); a miss with nothing in flight
changes nothing (log 10). -/
def Obligations.MissesAreCounted : Prop :=
  ∀ s : State,
    (s.link.inFlight = none → exec .spotLinkMiss s = .next s)
    ∧ ∀ f, s.link.inFlight = some f →
      (f.entry.station = none → exec .spotLinkMiss s = .next s)
      ∧ (∀ n, f.entry.station = some n → f.mark = .dropped →
        let free : State := { s with link := { s.link with inFlight := none } }
        exec .spotLinkMiss s = .next (if f.entry.txn.holdsPoll then free.judgePoll else free))
      ∧ ∀ n txn, Awaits s f n txn →
        let t := s.station n
        let b := s.hears n { t with misses := t.misses + 1 }
        (t.status ≠ .lost → t.misses < 2 →
          (txn.kind ≠ .sampleRead → ∃ u : State, exec .spotLinkMiss s = .next u
            ∧ SequencerTakes (b.joinsAgain f n txn .stopped) u n [])
          ∧ ∀ marks, txn = .sampleRead marks →
            let c := if (marks.closing || marks.attention) = true then
                b.joinsAgain f n (.sampleRead ⟨none, marks.closing, marks.attention⟩) .stopped
              else b
            (marks.window = none ∨ (s.meter n).windowRead = none →
              ∃ u : State, exec .spotLinkMiss s = .next u ∧ SequencerTakes c u n [])
            ∧ ∀ w, marks.window ≠ none → (s.meter n).windowRead = some w →
              let r := { s.meter n with windowRead := none }.computeWindow (s.spot n).config (s.carGrade n)
                ((s.spot n).car.bind CarRecord.targetMass) w 0 true none
              ∃ m u : State, exec .spotLinkMiss s = .next u
                ∧ SequencerTakes (c.setMeter n r.1) m n
                    (if ((s.spot n).state = .transfer ∨ (s.spot n).state = .strip) ∧ r.1.heldRun = 5 then [.sensorFault]
                      else [])
                ∧ OutcomeTaken m u n r.2)
        ∧ (t.status = .lost ∨ 2 ≤ t.misses →
          let mine := f.entry :: s.link.entries.filter fun e => e.station = some n
          ∃ u : State, exec .spotLinkMiss s = .next u
            ∧ u.station n = { t with status := .lost, misses := 3, recovery := .running 1000 }
            ∧ (∀ k, k ≠ n → u.station k = s.station k)
            ∧ (∀ e ∈ u.link.entries, e.station ≠ some n) ∧ u.link.inFlight = none
            ∧ ((∃ e ∈ mine, e.txn.marks.window ≠ none) → (u.meter n).windowRead = none)
            ∧ ((∃ e ∈ mine, e.txn.marks.closing = true) → (s.meter n).closingRequest = true →
                (u.meter n).closingRequest = false ∧ (u.meter n).flags.pulsesUnread = true)
            ∧ u.strokeOn n = false
            ∧ (∀ k, s.proof.stroke = some k → k.valve.val / 2 = n.val →
                u.proofRecord k.valve = { s.proofRecord k.valve with lastResult := some .aborted })
            ∧ (t.status ≠ .lost → (s.spot n).state.armed = true → (u.spot n).state = .tripped
                ∧ ∃ c, (u.spot n).trip = some c ∧ c.firstOut = .stationLost ∧ .stationLost ∈ c.causes)
            ∧ Event s u)

/-! ## Replies on the spot link -/

/-- What a reply is taken for (R144, R151, R153, R156): with nothing in flight, or a poll, it is disregarded; anything but
a frame of the station, the kind and its length is a miss; one with PRESENT clear makes the station UNKNOWN, queues an
INITIALIZE, and sends the transaction again as a miss does. The model's choices (log 10): a reply with nothing in flight,
or a poll, changes nothing, and bytes behind the frame's end are disregarded. -/
def Obligations.RepliesAreJudged : Prop :=
  ∀ (s : State) (frame : List Byte), ∀ row ∈ [(LinkKind.initStation, Instr.initializeReply),
      (.close, Instr.closeReply), (.sampleRead, Instr.sampleReadReply), (.countAck, Instr.countAckReply),
      (.valveOpen, Instr.valveOpenReply), (.stroke, Instr.strokeReply), (.clear, Instr.clearReply)],
    ((∀ f, s.link.inFlight = some f → f.entry.station = none) → exec (row.2 frame) s = .next s)
    ∧ (∀ f n, s.link.inFlight = some f → f.entry.station = some n → f.mark = .dropped →
      exec (row.2 frame) s = exec .spotLinkMiss s)
    ∧ ∀ f n txn, Awaits s f n txn →
      (txn.kind ≠ row.1 ∨ (¬∃ flags data extra, frame = linkReplyFrame n row.1 flags data ++ extra
          ∧ (data.length + 1 = replyLength row.1 ∨ (data = [] ∧ flags.getLsbD 0 = false))) →
        exec (row.2 frame) s = exec .spotLinkMiss s)
      ∧ ∀ flags data extra, txn.kind = row.1 → frame = linkReplyFrame n row.1 flags data ++ extra →
        data.length + 1 = replyLength row.1 ∨ data = [] → flags.getLsbD 0 = false →
        let heard := s.hears n { s.station n with misses := 0, status := .unknown }
        let b := if row.1 = .initStation then heard else heard.join ⟨some n, .initStation false, .stopped⟩
        (row.1 ≠ .sampleRead → ∃ u : State, exec (row.2 frame) s = .next u
          ∧ SequencerTakes (b.joinsAgain f n txn .stopped) u n [])
        ∧ ∀ marks, txn = .sampleRead marks →
          let c := if (marks.closing || marks.attention) = true then
              b.joinsAgain f n (.sampleRead ⟨none, marks.closing, marks.attention⟩) .stopped
            else b
          (marks.window = none ∨ (s.meter n).windowRead = none →
            ∃ u : State, exec (row.2 frame) s = .next u ∧ SequencerTakes c u n [])
          ∧ ∀ w, marks.window ≠ none → (s.meter n).windowRead = some w →
            let r := { s.meter n with windowRead := none }.computeWindow (s.spot n).config (s.carGrade n)
              ((s.spot n).car.bind CarRecord.targetMass) w 0 true none
            ∃ m u : State, exec (row.2 frame) s = .next u
              ∧ SequencerTakes (c.setMeter n r.1) m n
                  (if ((s.spot n).state = .transfer ∨ (s.spot n).state = .strip) ∧ r.1.heldRun = 5 then [.sensorFault]
                    else [])
              ∧ OutcomeTaken m u n r.2

/-- A reply to INITIALIZE with PRESENT set (R153, R155, R73, R118, R29, R204): the first one starts the station's booking at 0,
withdraws a COUNT_ACK, and marks PULSES_UNREAD on an armed or TRIPPED spot; DONE completes the closes, drives open what
stood open in TRANSFER and STRIP, and queues the station's first read (R204). The model's choices: the first reply is
known by the entry's answered mark (log 20); the causes of the reply come before its DONE, which shows where LOCAL rises
with it (logs 12 and 32). -/
def Obligations.InitializeReplyStartsTheStation : Prop :=
  ∀ (s : State) (n : SpotNo) (answered : Bool) (flags : Byte) (f : InFlight),
    Awaits s f n (.initStation answered) → flags.getLsbD 0 = true →
    let reply := Instr.initializeReply (linkReplyFrame n .initStation flags [])
    let t : Station :=
      { s.station n with misses := 0, status := if flags.getLsbD 2 then .localOp else .online }
    let fresh := s.hears n { t with booked := 0, ackOutstanding := none, recovery := .stopped }
    let unread : Meter := { s.meter n with flags := { (s.meter n).flags with pulsesUnread := true } }
    let b : State := if answered then s.hears n t else
      ({ fresh with link := { fresh.link with
          entries := fresh.link.entries.filter fun e => !(e.station == some n && e.txn.kind == .countAck) } } :
        State).setMeter n (if (s.spot n).state.armed || (s.spot n).state = .tripped then unread else s.meter n)
    (flags.getLsbD 1 = false → ∃ u : State, exec reply s = .next u
      ∧ SequencerTakes (b.joinsAgain f n (.initStation true) (.running 100)) u n (causesRisen s b n))
    ∧ (flags.getLsbD 1 = true → ∃ m v : State, SequencerTakes b m n (causesRisen s b n)
      ∧ FinishesCloses m v n
        (let r := m.spot n
         let moving := r.state = .transfer ∨ r.state = .strip
         ⟨r.openDeferred.l || (moving ∧ (r.valveL = .opening ∨ r.valveL = .opened)),
          r.openDeferred.v || (moving ∧ (r.valveV = .opening ∨ r.valveV = .opened))⟩)
      ∧ exec reply s = .next (v.request n (.sampleRead ⟨none, false, true⟩)))

/-- A reply to CLOSE or VALVE_OPEN with PRESENT set (R29, R151, R153): the positions are replaced; DONE makes CLOSING
valves CLOSED and gives the deferred opens, or makes the OPENING valves named OPEN; else it is sent again in 100 ms. The
model's choice: the causes of the reply come before its DONE, which shows where LOCAL rises with the DONE of a CLOSE that
has deferred opens (logs 12 and 32). -/
def Obligations.ValveRepliesMoveTheCommandStates : Prop :=
  ∀ (s : State) (n : SpotNo) (flags positions : Byte) (f : InFlight), flags.getLsbD 0 = true →
    let heard := s.hears n
      { s.station n with
        misses := 0, status := if flags.getLsbD 2 then .localOp else .online,
        positions := some (readPositions positions.toNat) }
    let brought := causesRisen s heard n
    (Awaits s f n .close →
      let reply := Instr.closeReply (linkReplyFrame n .close flags [positions])
      (flags.getLsbD 1 = false → ∃ u : State, exec reply s = .next u
        ∧ SequencerTakes (heard.joinsAgain f n .close (.running 100)) u n brought)
      ∧ (flags.getLsbD 1 = true → ∃ m u : State, exec reply s = .next u
        ∧ SequencerTakes heard m n brought ∧ FinishesCloses m u n (m.spot n).openDeferred))
    ∧ ∀ set, Awaits s f n (.valveOpen set) →
      let reply := Instr.valveOpenReply (linkReplyFrame n .valveOpen flags [positions])
      (flags.getLsbD 1 = false → ∃ u : State, exec reply s = .next u
        ∧ SequencerTakes (heard.joinsAgain f n (.valveOpen set) (.running 100)) u n brought)
      ∧ (flags.getLsbD 1 = true → ∃ m : State, SequencerTakes heard m n brought
        ∧ let r := m.spot n
          let openL : Bool := set.l ∧ r.valveL = .opening
          let openV : Bool := set.v ∧ r.valveV = .opening
          exec reply s = .next (m.setSpot n
            { r with
              valveL := if openL then .opened else r.valveL
              valveV := if openV then .opened else r.valveV
              travelL := if openL then .stopped else r.travelL
              travelV := if openV then .stopped else r.travelV }))

/-- A reply to SAMPLE_READ with PRESENT set (R153, R157, R158, R108, R112, R23, R163): the station's inputs and positions
are replaced and its pulses booked; NOT_DONE sends the read again in 100 ms with its markings (R147, R151); the window,
then the closing read, that its markings name complete; the sequencer takes the causes, then the window's outcome; then
the acknowledgement and the CLEAR are asked for. The model's choices: a reply with NOT_DONE, which no station sends (R146),
is taken as whole as one with DONE (log 11); the settlement, the COUNT_ACK, the CLEAR and the judgement of R162 follow
the sequencer's part (log 12). -/
def Obligations.SampleReadReplyIsBooked : Prop :=
  ∀ (s : State) (n : SpotNo) (marks : Markings) (flags : Byte) (data : List Byte) (f : InFlight),
    Awaits s f n (.sampleRead marks) → data.length = 15 → flags.getLsbD 0 = true →
    let x := readSample data
    let r := s.spot n
    let moving : Bool := r.state = .transfer ∨ r.state = .strip
    let books := marks.window.isSome || marks.closing
    let pulses := x.total - (s.station n).booked
    let renewed := (s.meter n).renew x
    let window : Option (Meter × WindowReport) := if marks.window = none then none else
      (s.meter n).windowRead.map fun w => { renewed with windowRead := none }.computeWindow r.config (s.carGrade n)
        (r.car.bind CarRecord.targetMass) w pulses (x.temp = none ∨ x.dp = none ∨ x.pv = none) x.carPressure
    let after := (window.map Prod.fst).getD renewed
    let closes := marks.closing && (s.meter n).closingRequest
    let updated := s.hears n
      { s.station n with
        misses := 0, status := if flags.getLsbD 2 then .localOp else .online, inputs := x.inputs,
        positions := some x.positions, booked := if books then x.total else (s.station n).booked,
        ackOutstanding := if books && 0 < x.total then some ⟨x.seq, x.total⟩ else (s.station n).ackOutstanding }
    let again := if flags.getLsbD 1 then updated else updated.joinsAgain f n (.sampleRead marks) (.running 100)
    let heard := again.setMeter n
      (if closes then
        { after.bookLiquid r.config (s.carGrade n) (if window.isSome then 0 else pulses) with closingRequest := false }
      else after)
    let brought := TripCause.all.filter fun c => c ∈ causesRisen s heard n
      ∨ (c = .overpressure ∧ moving ∧ ∃ p ∈ x.carPressure, gradeMaxPressure (s.carGrade n) < p)
      ∨ (c = .sensorFault ∧ moving ∧ ∃ w ∈ window, w.1.heldRun = 5)
    ∃ m u : State, SequencerTakes heard m n brought
      ∧ (window = none → u = m) ∧ (∀ w, window = some w → OutcomeTaken m u n w.2)
      ∧ let settled := u.setSpot n { u.spot n with closingRead := .settled }
        let closed := if !closes then u else
          if (u.spot n).state = .purge ∧ (u.spot n).purgeExpired then settled.endPurge n else settled
        let acked := if books && 0 < x.total then closed.request n (.countAck x.seq x.total) else closed
        exec (.sampleReadReply (linkReplyFrame n .sampleRead flags data)) s =
          .next (if marks.attention then (acked.request n .clear).judgePoll else acked)

/-- A reply to COUNT_ACK or CLEAR with PRESENT set (R151, R153, R159, R164): DONE takes the amount off the booked count
and leaves nothing outstanding, or finishes the CLEAR, after which R162 is judged; else it is sent again in 100 ms. -/
def Obligations.AckAndClearReplies : Prop :=
  ∀ (s : State) (n : SpotNo) (flags : Byte) (f : InFlight), flags.getLsbD 0 = true →
    let t : Station :=
      { s.station n with misses := 0, status := if flags.getLsbD 2 then .localOp else .online }
    let heard := s.hears n t
    (∀ seq amount data, Awaits s f n (.countAck seq amount) → data.length = 2 →
      let reply := Instr.countAckReply (linkReplyFrame n .countAck flags data)
      let acked := s.hears n { t with booked := t.booked - amount, ackOutstanding := none }
      (flags.getLsbD 1 = false → ∃ u : State, exec reply s = .next u
        ∧ SequencerTakes (heard.joinsAgain f n (.countAck seq amount) (.running 100)) u n (causesRisen s heard n))
      ∧ (flags.getLsbD 1 = true → ∃ u : State, exec reply s = .next u
        ∧ SequencerTakes acked u n (causesRisen s acked n)))
    ∧ (Awaits s f n .clear →
      ∃ u : State, exec (.clearReply (linkReplyFrame n .clear flags [])) s = .next u.judgePoll
        ∧ SequencerTakes (if flags.getLsbD 1 then heard else heard.joinsAgain f n .clear (.running 100)) u n
          (causesRisen s heard n))

/-! ## Attention -/

/-- R162 is judged when the attention line becomes active: one poll is queued where the line is active, no poll stands,
no ATTENTION read and no CLEAR stands, and the hold-off has run out. The model's choices: the command with the level
false, and one that repeats the level, only write the level of the pin (logs 9 and 16). -/
def Obligations.AttentionLineQueuesAPoll : Prop :=
  ∀ s : State,
    (∀ level, exec (.attentionLineActive level) s =
      let b : State := { s with link := { s.link with attentionLine := level } }
      .next (if level && !s.link.attentionLine then b.judgePoll else b))
    ∧ (let stands (e : LinkEntry) : Prop := e.txn = .clear ∨ ∃ m, e.txn = .sampleRead m ∧ m.attention = true
       let poll (e : LinkEntry) : Prop := e.station = none ∧ e.txn = .attentionPoll
       let wanted : Prop := s.link.attentionLine = true ∧ s.link.pollHoldOff = .stopped
         ∧ (∀ e ∈ s.link.entries, ¬stands e ∧ ¬poll e)
         ∧ ∀ f, s.link.inFlight = some f → ¬stands f.entry ∧ ¬poll f.entry
       (wanted → s.judgePoll =
          { s with link := { s.link with entries := s.link.entries ++ [⟨none, .attentionPoll, .stopped⟩] } })
       ∧ (¬wanted → s.judgePoll = s))

/-- A poll ends (R162, R163, R156): a station in the mask and not LOST that answered PRESENT clear becomes UNKNOWN with an
INITIALIZE queued; one flagged, or whose slot holds anything but a good answer, is read with the ATTENTION marking; with
none of these the poll hold-off is loaded with 1 s. The state needs every trip record in number order, as every run keeps
it. The model's choices: a frame of a wrong address or kind is a failed reply, and an attention byte other than 0 is
latched (log 15); an answer with PRESENT clear sets misses 0, and the sequencer takes the change of status (log 29); with
no poll in flight, the command changes nothing (log 10). -/
def Obligations.AttentionPollIsTaken : Prop :=
  ∀ (slots : List (List Byte)) (s : State), slots.length = 6 → TripsInOrder s →
    let free : State := { s with link := { s.link with inFlight := none } }
    let slot (n : SpotNo) := slots.getD n.val []
    let heeded (n : SpotNo) : Prop := n ∈ s.link.mask ∧ (s.station n).status ≠ .lost
    let notFlagged (n : SpotNo) : Prop := slot n = [] ∨ ∃ flags extra, flags.getLsbD 0 = true
      ∧ slot n = linkReplyFrame n .attentionPoll flags [0] ++ extra
    let notInitialized (n : SpotNo) : Prop := ∃ flags data extra, flags.getLsbD 0 = false ∧ data.length ≤ 1
      ∧ slot n = linkReplyFrame n .attentionPoll flags data ++ extra
    let read (n : SpotNo) : Prop := heeded n ∧ ¬notFlagged n ∧ ¬notInitialized n
    ((∀ f, s.link.inFlight = some f → f.entry.txn ≠ .attentionPoll) →
      exec (.attentionPollComplete slots) s = .next s)
    ∧ (∀ f, s.link.inFlight = some f → f.entry.txn = .attentionPoll → f.mark = .dropped →
      exec (.attentionPollComplete slots) s = .next free.judgePoll)
    ∧ (∀ f, s.link.inFlight = some f → f.entry.txn = .attentionPoll → f.mark ≠ .dropped →
      ∃ u : State, exec (.attentionPollComplete slots) s = .next u
      ∧ Event s u ∧ u.link.inFlight = none ∧ u.link.mask = s.link.mask ∧ u.tickets = s.tickets
      ∧ (∀ n, heeded n ∧ notInitialized n → u.station n = { s.station n with misses := 0, status := .unknown }
          ∧ u.link.hasPending (some n) .initStation = true)
      ∧ (∀ n, ¬(heeded n ∧ notInitialized n) → u.station n = s.station n)
      ∧ (∀ n, read n → (s.station n).status ≠ .absent →
          ∃ e ∈ u.link.entries, e.station = some n ∧ ∃ m, e.txn = .sampleRead m ∧ m.attention = true)
      ∧ ((∃ n, read n) → u.link.pollHoldOff = s.link.pollHoldOff)
      ∧ ((∀ n, ¬read n) → u.link.pollHoldOff = .running 1000)
      ∧ ((∀ n, ((s.spot n).state = .assigned → ((s.station n).inputs.arms && (s.station n).inputs.bond) = false)
            ∧ ((s.spot n).state = .complete → (s.station n).inputs.arms = true)) →
          u.comp = s.comp ∧ u.proof = s.proof ∧ ∀ n, u.spot n = s.spot n ∧ u.meter n = s.meter n))

/-! ## Metering arithmetic -/

/-- A SAMPLE_READ reply renews the held values (R56, R57, R58, R160): a valid reading brought into its range with its
clamp mark, an absent one kept; the overrun flag joins. Stages 1 to 3 (R59, R60, R61, R63, R56) book volume and liquid
mass with their residuals, saturating at 4,294,967,295. -/
def Obligations.ReadingsAreHeldAndLiquidIsBooked : Prop :=
  (∀ (m : Meter) (x : Sample),
    (∀ t, x.temp = some t → (m.renew x).heldT = ⟨max (-5000) (min 6000 t), t < -5000 || 6000 < t⟩)
    ∧ (x.temp = none → (m.renew x).heldT = m.heldT)
    ∧ (∀ d, x.dp = some d → (m.renew x).heldDp = ⟨min 25000 d, 25000 < d⟩)
    ∧ (x.dp = none → (m.renew x).heldDp = m.heldDp)
    ∧ (∀ p, x.pv = some p → (m.renew x).heldPv = ⟨max 100 (min 2500 p), p < 100 || 2500 < p⟩)
    ∧ (x.pv = none → (m.renew x).heldPv = m.heldPv)
    ∧ (m.renew x).heldCarPressure = x.carPressure.getD m.heldCarPressure
    ∧ (m.renew x).flags = { m.flags with pulseOverrun := m.flags.pulseOverrun || x.overrun }
    ∧ m.renew x = { m with
        heldT := (m.renew x).heldT, heldDp := (m.renew x).heldDp, heldPv := (m.renew x).heldPv,
        heldCarPressure := (m.renew x).heldCarPressure, flags := (m.renew x).flags })
  ∧ (∀ (m : Meter) (c : SpotConfig) (g : Option Grade) (p : Nat),
    let top := 4294967295
    let v := (p * 1000000 + m.rv) / c.k
    let product := v * gradeDensity g m.heldT.value + m.rm
    m.bookLiquid c g p = { m with
      volume := min (m.volume + v) top
      rv := (p * 1000000 + m.rv) % c.k
      liquid := min (m.liquid + product / 100000) top
      rm := product % 100000
      flags := { m.flags with
        tempClamped := m.flags.tempClamped || m.heldT.clamped
        accumSat := m.flags.accumSat || top < m.volume + v || top < m.liquid + product / 100000 } })

/-- A window (R53, R62 to R69): stages 1 to 3, then the vapour mass of stage 4 in the accumulator of its phase, from the
whole square root of dp × Pv; the estimate and the held run; target, heel and strip end; the report. -/
def Obligations.WindowIsComputed : Prop :=
  ∀ (m : Meter) (c : SpotConfig) (g : Option Grade) (target : Option Nat) (w : WindowRead) (p root : Nat)
    (estimated : Bool) (fresh : Option Nat), m.heldDp.value ≤ 25000 → m.heldPv.value ≤ 2500 →
    let dp := if m.heldDp.value < c.dpCutoff then 0 else m.heldDp.value
    root * root ≤ dp * m.heldPv.value → dp * m.heldPv.value < (root + 1) * (root + 1) →
    let top := 4294967295
    let b := m.bookLiquid c g p
    let inTransfer : Bool := w.phase = .transfer
    let total := root * c.co * w.period + (if inTransfer then m.rr else m.rc)
    let returned := if inTransfer then min (m.vapourReturned + total / 16000000) top else m.vapourReturned
    let recovered := if inTransfer then m.vapourRecovered else min (m.vapourRecovered + total / 16000000) top
    let net : Int := (b.liquid : Int) - returned + recovered
    let hit : Bool := inTransfer ∧ ∃ kg ∈ target, (kg : Int) * 1000 ≤ net
    let low : Bool := (p * 1000000 + m.rv) / c.k * 1000 < gradeHeelFlow g * w.period
    let countdown := if low then m.heelCountdown - 1 else c.heelWindows
    let run := if estimated then min (m.heldRun + 1) 5 else 0
    m.computeWindow c g target w p estimated fresh =
      ({ b with
        vapourReturned := returned
        vapourRecovered := recovered
        rr := if inTransfer then total % 16000000 else m.rr
        rc := if inTransfer then m.rc else total % 16000000
        estimatedWindows := if estimated then min (m.estimatedWindows + 1) top else m.estimatedWindows
        heldRun := run
        heelCountdown := if inTransfer && !hit && !estimated then countdown else m.heelCountdown
        flags := { b.flags with
          dpClamped := m.flags.dpClamped || m.heldDp.clamped
          pvClamped := m.flags.pvClamped || m.heldPv.clamped
          estimated := m.flags.estimated || estimated
          accumSat := b.flags.accumSat
            || top < (if inTransfer then m.vapourReturned else m.vapourRecovered) + total / 16000000 } },
       { phase := w.phase
         outcome :=
           if hit then .target
           else if inTransfer && !estimated && low && countdown == 0 then .empty
           else if !inTransfer && fresh.any (fun q => q ≤ gradeStripEnd g) then .stripEnd
           else .none
         sensorFault := run == 5 })

/-- Net grams to net kilograms (R75): the magnitude by the table of the four modes, the sign kept; UP goes toward plus
infinity and DOWN toward minus infinity; a net in the range of the running net gives a figure that fits 32 bits. -/
def Obligations.NetIsRounded : Prop :=
  ∀ (net : Int) (q r : Nat), net.natAbs = 1000 * q + r → r ≤ 999 →
    let nearest : Nat := if r < 500 then q else if 500 < r then q + 1 else if q % 2 = 0 then q else q + 1
    let away : Nat := if r = 0 then q else q + 1
    (0 ≤ net → roundNet .nearestEven net = nearest ∧ roundNet .towardZero net = q ∧ roundNet .up net = away
      ∧ roundNet .down net = q)
    ∧ (net < 0 → roundNet .nearestEven net = -(nearest : Int) ∧ roundNet .towardZero net = -(q : Int)
      ∧ roundNet .up net = -(q : Int) ∧ roundNet .down net = -(away : Int))
    ∧ net ≤ 1000 * roundNet .up net ∧ 1000 * roundNet .down net ≤ net
    ∧ (-4294967295 ≤ net → net ≤ 8589934590 → ∀ mode,
        -4294968 ≤ roundNet mode net ∧ roundNet mode net ≤ 8589935)

/-! ## What every step keeps -/

/-- Every step keeps the capacities (R34, R166, R174, R185), the ranges of the metering records (R48), the pending
list at one entry for each pair of station and kind (R148), and the cause set of every trip record in number order. -/
def Obligations.CapacitiesRangesAndPairsKept : Prop :=
  ∀ s t : State, step s = .next t →
    (CapacitiesHold s → CapacitiesHold t) ∧ (MetersInRange s → MetersInRange t) ∧ (OnePerPair s → OnePerPair t)
      ∧ (TripsInOrder s → TripsInOrder t)

/-- Every step of a machine within its capacities keeps shares, queue entries and timers as the spot states have them. -/
def Obligations.SharesFollowStatesAtEveryStep : Prop :=
  ∀ s t : State, CapacitiesHold s → SharesFollowStates s → step s = .next t → SharesFollowStates t

/-- Every well-formed command answers a next state, in every state. -/
def Obligations.WellFormedCommandsNeverStop : Prop :=
  ∀ (c : Instr) (s : State), c.wellFormed = true → ∃ t, exec c s = .next t ∧ t.pending = s.pending
end

