-- ==== Sys2Proof/Laws/State.lean ====
section
/-! SUPPORT. One lemma for each field and each update of the state: what an update writes, and what it leaves. -/

namespace Sys2Proof.Machine.State

variable (s : State)

/-! ## The three changes in place -/

@[simp] theorem onSpot_eq (n : SpotNo) (f : SpotRecord → SpotRecord) : s.onSpot n f = s.setSpot n (f (s.spot n)) := rfl

@[simp] theorem onMeter_eq (n : SpotNo) (f : Meter → Meter) : s.onMeter n f = s.setMeter n (f (s.meter n)) := rfl

@[simp] theorem onStation_eq (n : SpotNo) (f : Station → Station) :
    s.onStation n f = s.setStation n (f (s.station n)) := rfl

/-! ## Fields after an update -/

@[simp] theorem pending_setSpot (n : SpotNo) (r : SpotRecord) : (s.setSpot n r).pending = s.pending := rfl
@[simp] theorem line_setSpot (n : SpotNo) (r : SpotRecord) : (s.setSpot n r).line = s.line := rfl
@[simp] theorem manifest_setSpot (n : SpotNo) (r : SpotRecord) : (s.setSpot n r).manifest = s.manifest := rfl
@[simp] theorem meters_setSpot (n : SpotNo) (r : SpotRecord) : (s.setSpot n r).meters = s.meters := rfl
@[simp] theorem grades_setSpot (n : SpotNo) (r : SpotRecord) : (s.setSpot n r).grades = s.grades := rfl
@[simp] theorem comp_setSpot (n : SpotNo) (r : SpotRecord) : (s.setSpot n r).comp = s.comp := rfl
@[simp] theorem proof_setSpot (n : SpotNo) (r : SpotRecord) : (s.setSpot n r).proof = s.proof := rfl
@[simp] theorem link_setSpot (n : SpotNo) (r : SpotRecord) : (s.setSpot n r).link = s.link := rfl
@[simp] theorem tickets_setSpot (n : SpotNo) (r : SpotRecord) : (s.setSpot n r).tickets = s.tickets := rfl
@[simp] theorem siding_setSpot (n : SpotNo) (r : SpotRecord) : (s.setSpot n r).siding = s.siding := rfl
@[simp] theorem choices_setSpot (n : SpotNo) (r : SpotRecord) : (s.setSpot n r).choices = s.choices := rfl
@[simp] theorem meter_setSpot (n : SpotNo) (r : SpotRecord) (k : SpotNo) :
    (s.setSpot n r).meter k = s.meter k := rfl
@[simp] theorem station_setSpot (n : SpotNo) (r : SpotRecord) (k : SpotNo) :
    (s.setSpot n r).station k = s.station k := rfl
@[simp] theorem grade_setSpot (n : SpotNo) (r : SpotRecord) (g' : GradeNo) :
    (s.setSpot n r).grade g' = s.grade g' := rfl
@[simp] theorem proofRecord_setSpot (n : SpotNo) (r : SpotRecord) (v' : ValveIndex) :
    (s.setSpot n r).proofRecord v' = s.proofRecord v' := rfl

@[simp] theorem pending_setMeter (n : SpotNo) (m : Meter) : (s.setMeter n m).pending = s.pending := rfl
@[simp] theorem line_setMeter (n : SpotNo) (m : Meter) : (s.setMeter n m).line = s.line := rfl
@[simp] theorem manifest_setMeter (n : SpotNo) (m : Meter) : (s.setMeter n m).manifest = s.manifest := rfl
@[simp] theorem spots_setMeter (n : SpotNo) (m : Meter) : (s.setMeter n m).spots = s.spots := rfl
@[simp] theorem grades_setMeter (n : SpotNo) (m : Meter) : (s.setMeter n m).grades = s.grades := rfl
@[simp] theorem comp_setMeter (n : SpotNo) (m : Meter) : (s.setMeter n m).comp = s.comp := rfl
@[simp] theorem proof_setMeter (n : SpotNo) (m : Meter) : (s.setMeter n m).proof = s.proof := rfl
@[simp] theorem link_setMeter (n : SpotNo) (m : Meter) : (s.setMeter n m).link = s.link := rfl
@[simp] theorem tickets_setMeter (n : SpotNo) (m : Meter) : (s.setMeter n m).tickets = s.tickets := rfl
@[simp] theorem siding_setMeter (n : SpotNo) (m : Meter) : (s.setMeter n m).siding = s.siding := rfl
@[simp] theorem choices_setMeter (n : SpotNo) (m : Meter) : (s.setMeter n m).choices = s.choices := rfl
@[simp] theorem spot_setMeter (n : SpotNo) (m : Meter) (k : SpotNo) :
    (s.setMeter n m).spot k = s.spot k := rfl
@[simp] theorem station_setMeter (n : SpotNo) (m : Meter) (k : SpotNo) :
    (s.setMeter n m).station k = s.station k := rfl
@[simp] theorem grade_setMeter (n : SpotNo) (m : Meter) (g' : GradeNo) :
    (s.setMeter n m).grade g' = s.grade g' := rfl
@[simp] theorem proofRecord_setMeter (n : SpotNo) (m : Meter) (v' : ValveIndex) :
    (s.setMeter n m).proofRecord v' = s.proofRecord v' := rfl

@[simp] theorem pending_setStation (n : SpotNo) (r : Station) : (s.setStation n r).pending = s.pending := rfl
@[simp] theorem line_setStation (n : SpotNo) (r : Station) : (s.setStation n r).line = s.line := rfl
@[simp] theorem manifest_setStation (n : SpotNo) (r : Station) : (s.setStation n r).manifest = s.manifest := rfl
@[simp] theorem spots_setStation (n : SpotNo) (r : Station) : (s.setStation n r).spots = s.spots := rfl
@[simp] theorem meters_setStation (n : SpotNo) (r : Station) : (s.setStation n r).meters = s.meters := rfl
@[simp] theorem grades_setStation (n : SpotNo) (r : Station) : (s.setStation n r).grades = s.grades := rfl
@[simp] theorem comp_setStation (n : SpotNo) (r : Station) : (s.setStation n r).comp = s.comp := rfl
@[simp] theorem proof_setStation (n : SpotNo) (r : Station) : (s.setStation n r).proof = s.proof := rfl
@[simp] theorem tickets_setStation (n : SpotNo) (r : Station) : (s.setStation n r).tickets = s.tickets := rfl
@[simp] theorem siding_setStation (n : SpotNo) (r : Station) : (s.setStation n r).siding = s.siding := rfl
@[simp] theorem choices_setStation (n : SpotNo) (r : Station) : (s.setStation n r).choices = s.choices := rfl
@[simp] theorem spot_setStation (n : SpotNo) (r : Station) (k : SpotNo) :
    (s.setStation n r).spot k = s.spot k := rfl
@[simp] theorem meter_setStation (n : SpotNo) (r : Station) (k : SpotNo) :
    (s.setStation n r).meter k = s.meter k := rfl
@[simp] theorem grade_setStation (n : SpotNo) (r : Station) (g' : GradeNo) :
    (s.setStation n r).grade g' = s.grade g' := rfl
@[simp] theorem proofRecord_setStation (n : SpotNo) (r : Station) (v' : ValveIndex) :
    (s.setStation n r).proofRecord v' = s.proofRecord v' := rfl

@[simp] theorem pending_setProofRecord (v : ValveIndex) (r : ProofRecord) : (s.setProofRecord v r).pending = s.pending := rfl
@[simp] theorem line_setProofRecord (v : ValveIndex) (r : ProofRecord) : (s.setProofRecord v r).line = s.line := rfl
@[simp] theorem manifest_setProofRecord (v : ValveIndex) (r : ProofRecord) : (s.setProofRecord v r).manifest = s.manifest := rfl
@[simp] theorem spots_setProofRecord (v : ValveIndex) (r : ProofRecord) : (s.setProofRecord v r).spots = s.spots := rfl
@[simp] theorem meters_setProofRecord (v : ValveIndex) (r : ProofRecord) : (s.setProofRecord v r).meters = s.meters := rfl
@[simp] theorem grades_setProofRecord (v : ValveIndex) (r : ProofRecord) : (s.setProofRecord v r).grades = s.grades := rfl
@[simp] theorem comp_setProofRecord (v : ValveIndex) (r : ProofRecord) : (s.setProofRecord v r).comp = s.comp := rfl
@[simp] theorem link_setProofRecord (v : ValveIndex) (r : ProofRecord) : (s.setProofRecord v r).link = s.link := rfl
@[simp] theorem tickets_setProofRecord (v : ValveIndex) (r : ProofRecord) : (s.setProofRecord v r).tickets = s.tickets := rfl
@[simp] theorem siding_setProofRecord (v : ValveIndex) (r : ProofRecord) : (s.setProofRecord v r).siding = s.siding := rfl
@[simp] theorem choices_setProofRecord (v : ValveIndex) (r : ProofRecord) : (s.setProofRecord v r).choices = s.choices := rfl
@[simp] theorem spot_setProofRecord (v : ValveIndex) (r : ProofRecord) (k : SpotNo) :
    (s.setProofRecord v r).spot k = s.spot k := rfl
@[simp] theorem meter_setProofRecord (v : ValveIndex) (r : ProofRecord) (k : SpotNo) :
    (s.setProofRecord v r).meter k = s.meter k := rfl
@[simp] theorem station_setProofRecord (v : ValveIndex) (r : ProofRecord) (k : SpotNo) :
    (s.setProofRecord v r).station k = s.station k := rfl
@[simp] theorem grade_setProofRecord (v : ValveIndex) (r : ProofRecord) (g' : GradeNo) :
    (s.setProofRecord v r).grade g' = s.grade g' := rfl

@[simp] theorem pending_setGrade (g : GradeNo) (r : Grade) : (s.setGrade g r).pending = s.pending := rfl
@[simp] theorem line_setGrade (g : GradeNo) (r : Grade) : (s.setGrade g r).line = s.line := rfl
@[simp] theorem manifest_setGrade (g : GradeNo) (r : Grade) : (s.setGrade g r).manifest = s.manifest := rfl
@[simp] theorem spots_setGrade (g : GradeNo) (r : Grade) : (s.setGrade g r).spots = s.spots := rfl
@[simp] theorem meters_setGrade (g : GradeNo) (r : Grade) : (s.setGrade g r).meters = s.meters := rfl
@[simp] theorem comp_setGrade (g : GradeNo) (r : Grade) : (s.setGrade g r).comp = s.comp := rfl
@[simp] theorem proof_setGrade (g : GradeNo) (r : Grade) : (s.setGrade g r).proof = s.proof := rfl
@[simp] theorem link_setGrade (g : GradeNo) (r : Grade) : (s.setGrade g r).link = s.link := rfl
@[simp] theorem tickets_setGrade (g : GradeNo) (r : Grade) : (s.setGrade g r).tickets = s.tickets := rfl
@[simp] theorem siding_setGrade (g : GradeNo) (r : Grade) : (s.setGrade g r).siding = s.siding := rfl
@[simp] theorem choices_setGrade (g : GradeNo) (r : Grade) : (s.setGrade g r).choices = s.choices := rfl
@[simp] theorem spot_setGrade (g : GradeNo) (r : Grade) (k : SpotNo) :
    (s.setGrade g r).spot k = s.spot k := rfl
@[simp] theorem meter_setGrade (g : GradeNo) (r : Grade) (k : SpotNo) :
    (s.setGrade g r).meter k = s.meter k := rfl
@[simp] theorem station_setGrade (g : GradeNo) (r : Grade) (k : SpotNo) :
    (s.setGrade g r).station k = s.station k := rfl
@[simp] theorem proofRecord_setGrade (g : GradeNo) (r : Grade) (v' : ValveIndex) :
    (s.setGrade g r).proofRecord v' = s.proofRecord v' := rfl

@[simp] theorem pending_setComp (c : Compressor) : (s.setComp c).pending = s.pending := rfl
@[simp] theorem line_setComp (c : Compressor) : (s.setComp c).line = s.line := rfl
@[simp] theorem manifest_setComp (c : Compressor) : (s.setComp c).manifest = s.manifest := rfl
@[simp] theorem spots_setComp (c : Compressor) : (s.setComp c).spots = s.spots := rfl
@[simp] theorem meters_setComp (c : Compressor) : (s.setComp c).meters = s.meters := rfl
@[simp] theorem grades_setComp (c : Compressor) : (s.setComp c).grades = s.grades := rfl
@[simp] theorem comp_setComp (c : Compressor) : (s.setComp c).comp = c := rfl
@[simp] theorem proof_setComp (c : Compressor) : (s.setComp c).proof = s.proof := rfl
@[simp] theorem link_setComp (c : Compressor) : (s.setComp c).link = s.link := rfl
@[simp] theorem tickets_setComp (c : Compressor) : (s.setComp c).tickets = s.tickets := rfl
@[simp] theorem siding_setComp (c : Compressor) : (s.setComp c).siding = s.siding := rfl
@[simp] theorem choices_setComp (c : Compressor) : (s.setComp c).choices = s.choices := rfl
@[simp] theorem spot_setComp (c : Compressor) (k : SpotNo) :
    (s.setComp c).spot k = s.spot k := rfl
@[simp] theorem meter_setComp (c : Compressor) (k : SpotNo) :
    (s.setComp c).meter k = s.meter k := rfl
@[simp] theorem station_setComp (c : Compressor) (k : SpotNo) :
    (s.setComp c).station k = s.station k := rfl
@[simp] theorem grade_setComp (c : Compressor) (g' : GradeNo) :
    (s.setComp c).grade g' = s.grade g' := rfl
@[simp] theorem proofRecord_setComp (c : Compressor) (v' : ValveIndex) :
    (s.setComp c).proofRecord v' = s.proofRecord v' := rfl

@[simp] theorem pending_setLink (l : Link) : (s.setLink l).pending = s.pending := rfl
@[simp] theorem line_setLink (l : Link) : (s.setLink l).line = s.line := rfl
@[simp] theorem manifest_setLink (l : Link) : (s.setLink l).manifest = s.manifest := rfl
@[simp] theorem spots_setLink (l : Link) : (s.setLink l).spots = s.spots := rfl
@[simp] theorem meters_setLink (l : Link) : (s.setLink l).meters = s.meters := rfl
@[simp] theorem grades_setLink (l : Link) : (s.setLink l).grades = s.grades := rfl
@[simp] theorem comp_setLink (l : Link) : (s.setLink l).comp = s.comp := rfl
@[simp] theorem proof_setLink (l : Link) : (s.setLink l).proof = s.proof := rfl
@[simp] theorem link_setLink (l : Link) : (s.setLink l).link = l := rfl
@[simp] theorem tickets_setLink (l : Link) : (s.setLink l).tickets = s.tickets := rfl
@[simp] theorem siding_setLink (l : Link) : (s.setLink l).siding = s.siding := rfl
@[simp] theorem choices_setLink (l : Link) : (s.setLink l).choices = s.choices := rfl
@[simp] theorem spot_setLink (l : Link) (k : SpotNo) :
    (s.setLink l).spot k = s.spot k := rfl
@[simp] theorem meter_setLink (l : Link) (k : SpotNo) :
    (s.setLink l).meter k = s.meter k := rfl
@[simp] theorem grade_setLink (l : Link) (g' : GradeNo) :
    (s.setLink l).grade g' = s.grade g' := rfl
@[simp] theorem proofRecord_setLink (l : Link) (v' : ValveIndex) :
    (s.setLink l).proofRecord v' = s.proofRecord v' := rfl

@[simp] theorem pending_setTickets (u : TicketUnit) : (s.setTickets u).pending = s.pending := rfl
@[simp] theorem line_setTickets (u : TicketUnit) : (s.setTickets u).line = s.line := rfl
@[simp] theorem manifest_setTickets (u : TicketUnit) : (s.setTickets u).manifest = s.manifest := rfl
@[simp] theorem spots_setTickets (u : TicketUnit) : (s.setTickets u).spots = s.spots := rfl
@[simp] theorem meters_setTickets (u : TicketUnit) : (s.setTickets u).meters = s.meters := rfl
@[simp] theorem grades_setTickets (u : TicketUnit) : (s.setTickets u).grades = s.grades := rfl
@[simp] theorem comp_setTickets (u : TicketUnit) : (s.setTickets u).comp = s.comp := rfl
@[simp] theorem proof_setTickets (u : TicketUnit) : (s.setTickets u).proof = s.proof := rfl
@[simp] theorem link_setTickets (u : TicketUnit) : (s.setTickets u).link = s.link := rfl
@[simp] theorem tickets_setTickets (u : TicketUnit) : (s.setTickets u).tickets = u := rfl
@[simp] theorem siding_setTickets (u : TicketUnit) : (s.setTickets u).siding = s.siding := rfl
@[simp] theorem choices_setTickets (u : TicketUnit) : (s.setTickets u).choices = s.choices := rfl
@[simp] theorem spot_setTickets (u : TicketUnit) (k : SpotNo) :
    (s.setTickets u).spot k = s.spot k := rfl
@[simp] theorem meter_setTickets (u : TicketUnit) (k : SpotNo) :
    (s.setTickets u).meter k = s.meter k := rfl
@[simp] theorem station_setTickets (u : TicketUnit) (k : SpotNo) :
    (s.setTickets u).station k = s.station k := rfl
@[simp] theorem grade_setTickets (u : TicketUnit) (g' : GradeNo) :
    (s.setTickets u).grade g' = s.grade g' := rfl
@[simp] theorem proofRecord_setTickets (u : TicketUnit) (v' : ValveIndex) :
    (s.setTickets u).proofRecord v' = s.proofRecord v' := rfl

@[simp] theorem pending_setManifest (m : List CarRecord) : (s.setManifest m).pending = s.pending := rfl
@[simp] theorem line_setManifest (m : List CarRecord) : (s.setManifest m).line = s.line := rfl
@[simp] theorem manifest_setManifest (m : List CarRecord) : (s.setManifest m).manifest = m := rfl
@[simp] theorem spots_setManifest (m : List CarRecord) : (s.setManifest m).spots = s.spots := rfl
@[simp] theorem meters_setManifest (m : List CarRecord) : (s.setManifest m).meters = s.meters := rfl
@[simp] theorem grades_setManifest (m : List CarRecord) : (s.setManifest m).grades = s.grades := rfl
@[simp] theorem comp_setManifest (m : List CarRecord) : (s.setManifest m).comp = s.comp := rfl
@[simp] theorem proof_setManifest (m : List CarRecord) : (s.setManifest m).proof = s.proof := rfl
@[simp] theorem link_setManifest (m : List CarRecord) : (s.setManifest m).link = s.link := rfl
@[simp] theorem tickets_setManifest (m : List CarRecord) : (s.setManifest m).tickets = s.tickets := rfl
@[simp] theorem siding_setManifest (m : List CarRecord) : (s.setManifest m).siding = s.siding := rfl
@[simp] theorem choices_setManifest (m : List CarRecord) : (s.setManifest m).choices = s.choices := rfl
@[simp] theorem spot_setManifest (m : List CarRecord) (k : SpotNo) :
    (s.setManifest m).spot k = s.spot k := rfl
@[simp] theorem meter_setManifest (m : List CarRecord) (k : SpotNo) :
    (s.setManifest m).meter k = s.meter k := rfl
@[simp] theorem station_setManifest (m : List CarRecord) (k : SpotNo) :
    (s.setManifest m).station k = s.station k := rfl
@[simp] theorem grade_setManifest (m : List CarRecord) (g' : GradeNo) :
    (s.setManifest m).grade g' = s.grade g' := rfl
@[simp] theorem proofRecord_setManifest (m : List CarRecord) (v' : ValveIndex) :
    (s.setManifest m).proofRecord v' = s.proofRecord v' := rfl

@[simp] theorem pending_setSiding (d : Siding) : (s.setSiding d).pending = s.pending := rfl
@[simp] theorem line_setSiding (d : Siding) : (s.setSiding d).line = s.line := rfl
@[simp] theorem manifest_setSiding (d : Siding) : (s.setSiding d).manifest = s.manifest := rfl
@[simp] theorem spots_setSiding (d : Siding) : (s.setSiding d).spots = s.spots := rfl
@[simp] theorem meters_setSiding (d : Siding) : (s.setSiding d).meters = s.meters := rfl
@[simp] theorem grades_setSiding (d : Siding) : (s.setSiding d).grades = s.grades := rfl
@[simp] theorem comp_setSiding (d : Siding) : (s.setSiding d).comp = s.comp := rfl
@[simp] theorem proof_setSiding (d : Siding) : (s.setSiding d).proof = s.proof := rfl
@[simp] theorem link_setSiding (d : Siding) : (s.setSiding d).link = s.link := rfl
@[simp] theorem tickets_setSiding (d : Siding) : (s.setSiding d).tickets = s.tickets := rfl
@[simp] theorem siding_setSiding (d : Siding) : (s.setSiding d).siding = d := rfl
@[simp] theorem choices_setSiding (d : Siding) : (s.setSiding d).choices = s.choices := rfl
@[simp] theorem spot_setSiding (d : Siding) (k : SpotNo) :
    (s.setSiding d).spot k = s.spot k := rfl
@[simp] theorem meter_setSiding (d : Siding) (k : SpotNo) :
    (s.setSiding d).meter k = s.meter k := rfl
@[simp] theorem station_setSiding (d : Siding) (k : SpotNo) :
    (s.setSiding d).station k = s.station k := rfl
@[simp] theorem grade_setSiding (d : Siding) (g' : GradeNo) :
    (s.setSiding d).grade g' = s.grade g' := rfl
@[simp] theorem proofRecord_setSiding (d : Siding) (v' : ValveIndex) :
    (s.setSiding d).proofRecord v' = s.proofRecord v' := rfl

@[simp] theorem pending_setLine (l : LineUnit) : (s.setLine l).pending = s.pending := rfl
@[simp] theorem line_setLine (l : LineUnit) : (s.setLine l).line = l := rfl
@[simp] theorem manifest_setLine (l : LineUnit) : (s.setLine l).manifest = s.manifest := rfl
@[simp] theorem spots_setLine (l : LineUnit) : (s.setLine l).spots = s.spots := rfl
@[simp] theorem meters_setLine (l : LineUnit) : (s.setLine l).meters = s.meters := rfl
@[simp] theorem grades_setLine (l : LineUnit) : (s.setLine l).grades = s.grades := rfl
@[simp] theorem comp_setLine (l : LineUnit) : (s.setLine l).comp = s.comp := rfl
@[simp] theorem proof_setLine (l : LineUnit) : (s.setLine l).proof = s.proof := rfl
@[simp] theorem link_setLine (l : LineUnit) : (s.setLine l).link = s.link := rfl
@[simp] theorem tickets_setLine (l : LineUnit) : (s.setLine l).tickets = s.tickets := rfl
@[simp] theorem siding_setLine (l : LineUnit) : (s.setLine l).siding = s.siding := rfl
@[simp] theorem choices_setLine (l : LineUnit) : (s.setLine l).choices = s.choices := rfl
@[simp] theorem spot_setLine (l : LineUnit) (k : SpotNo) :
    (s.setLine l).spot k = s.spot k := rfl
@[simp] theorem meter_setLine (l : LineUnit) (k : SpotNo) :
    (s.setLine l).meter k = s.meter k := rfl
@[simp] theorem station_setLine (l : LineUnit) (k : SpotNo) :
    (s.setLine l).station k = s.station k := rfl
@[simp] theorem grade_setLine (l : LineUnit) (g' : GradeNo) :
    (s.setLine l).grade g' = s.grade g' := rfl
@[simp] theorem proofRecord_setLine (l : LineUnit) (v' : ValveIndex) :
    (s.setLine l).proofRecord v' = s.proofRecord v' := rfl

@[simp] theorem pending_setStroke (k : Option Stroke) : (s.setStroke k).pending = s.pending := rfl
@[simp] theorem line_setStroke (k : Option Stroke) : (s.setStroke k).line = s.line := rfl
@[simp] theorem manifest_setStroke (k : Option Stroke) : (s.setStroke k).manifest = s.manifest := rfl
@[simp] theorem spots_setStroke (k : Option Stroke) : (s.setStroke k).spots = s.spots := rfl
@[simp] theorem meters_setStroke (k : Option Stroke) : (s.setStroke k).meters = s.meters := rfl
@[simp] theorem grades_setStroke (k : Option Stroke) : (s.setStroke k).grades = s.grades := rfl
@[simp] theorem comp_setStroke (k : Option Stroke) : (s.setStroke k).comp = s.comp := rfl
@[simp] theorem link_setStroke (k : Option Stroke) : (s.setStroke k).link = s.link := rfl
@[simp] theorem tickets_setStroke (k : Option Stroke) : (s.setStroke k).tickets = s.tickets := rfl
@[simp] theorem siding_setStroke (k : Option Stroke) : (s.setStroke k).siding = s.siding := rfl
@[simp] theorem choices_setStroke (k : Option Stroke) : (s.setStroke k).choices = s.choices := rfl
@[simp] theorem spot_setStroke (k : Option Stroke) (j : SpotNo) :
    (s.setStroke k).spot j = s.spot j := rfl
@[simp] theorem meter_setStroke (k : Option Stroke) (j : SpotNo) :
    (s.setStroke k).meter j = s.meter j := rfl
@[simp] theorem station_setStroke (k : Option Stroke) (j : SpotNo) :
    (s.setStroke k).station j = s.station j := rfl
@[simp] theorem grade_setStroke (k : Option Stroke) (g' : GradeNo) :
    (s.setStroke k).grade g' = s.grade g' := rfl

/-! ## Records after an update -/

@[simp] theorem stroke_setStroke (k : Option Stroke) : (s.setStroke k).proof.stroke = k := rfl

@[simp] theorem stroke_setProofRecord (v : ValveIndex) (r : ProofRecord) :
    (s.setProofRecord v r).proof.stroke = s.proof.stroke := rfl

@[simp] theorem proofRecord_setStroke (k : Option Stroke) (v : ValveIndex) :
    (s.setStroke k).proofRecord v = s.proofRecord v := rfl

theorem spot_setSpot (n k : SpotNo) (r : SpotRecord) : (s.setSpot n r).spot k = if k = n then r else s.spot k := by
  simp only [State.spot, State.setSpot, Vector.getElem_set, Fin.ext_iff, eq_comm]

theorem meter_setMeter (n k : SpotNo) (m : Meter) : (s.setMeter n m).meter k = if k = n then m else s.meter k := by
  simp only [State.meter, State.setMeter, Vector.getElem_set, Fin.ext_iff, eq_comm]

theorem station_setStation (n k : SpotNo) (r : Station) :
    (s.setStation n r).station k = if k = n then r else s.station k := by
  simp only [State.station, State.setStation, Vector.getElem_set, Fin.ext_iff, eq_comm]

theorem grade_setGrade (g k : GradeNo) (r : Grade) : (s.setGrade g r).grade k = if k = g then some r else s.grade k := by
  simp only [State.grade, State.setGrade, Vector.getElem_set, Fin.ext_iff, eq_comm]

theorem proofRecord_setProofRecord (v k : ValveIndex) (r : ProofRecord) :
    (s.setProofRecord v r).proofRecord k = if k = v then r else s.proofRecord k := by
  simp only [State.proofRecord, State.setProofRecord, Vector.getElem_set, Fin.ext_iff, eq_comm]

@[simp] theorem spot_setSpot_self (n : SpotNo) (r : SpotRecord) : (s.setSpot n r).spot n = r := by
  simp [spot_setSpot]

@[simp] theorem meter_setMeter_self (n : SpotNo) (m : Meter) : (s.setMeter n m).meter n = m := by
  simp [meter_setMeter]

/-- Two writes of one record are the last of them. -/
theorem setSpot_setSpot (n : SpotNo) (r x : SpotRecord) : (s.setSpot n r).setSpot n x = s.setSpot n x := by
  simp [setSpot]

theorem setMeter_setMeter (n : SpotNo) (m k : Meter) : (s.setMeter n m).setMeter n k = s.setMeter n k := by
  simp [setMeter]

/-- A record written back changes nothing. -/
theorem setSpot_spot (n : SpotNo) : s.setSpot n (s.spot n) = s := by
  simp [setSpot, spot]

theorem setMeter_meter (n : SpotNo) : s.setMeter n (s.meter n) = s := by
  simp [setMeter, meter]

@[simp] theorem station_setStation_self (n : SpotNo) (r : Station) : (s.setStation n r).station n = r := by
  simp [station_setStation]

@[simp] theorem grade_setGrade_self (g : GradeNo) (r : Grade) : (s.setGrade g r).grade g = some r := by
  simp [grade_setGrade]

@[simp] theorem proofRecord_setProofRecord_self (v : ValveIndex) (r : ProofRecord) :
    (s.setProofRecord v r).proofRecord v = r := by
  simp [proofRecord_setProofRecord]

@[simp] theorem station_setLink (l : Link) (k : SpotNo) : (s.setLink l).station k = l.stations[k.val] := rfl

@[simp] theorem entries_setStation (n : SpotNo) (r : Station) : (s.setStation n r).link.entries = s.link.entries := rfl

@[simp] theorem inFlight_setStation (n : SpotNo) (r : Station) : (s.setStation n r).link.inFlight = s.link.inFlight := rfl

@[simp] theorem mask_setStation (n : SpotNo) (r : Station) : (s.setStation n r).link.mask = s.link.mask := rfl

@[simp] theorem pollHoldOff_setStation (n : SpotNo) (r : Station) :
    (s.setStation n r).link.pollHoldOff = s.link.pollHoldOff := rfl

@[simp] theorem attentionLine_setStation (n : SpotNo) (r : Station) :
    (s.setStation n r).link.attentionLine = s.link.attentionLine := rfl

end Sys2Proof.Machine.State
end

