-- ==== Sys2Proof/Laws/Frames.lean ====
section
/-! SUPPORT. What each shared operation leaves alone, said once: the operations on a spot's course touch only the spot
records, the metering records, the compressor and the spot link; those of a whole event touch the tickets, the proofs
and the count of free choices besides. -/

namespace Sys2Proof.Machine

namespace LinkList

theorem refl (l : Link) : LinkList l l := ⟨rfl, rfl, rfl, rfl⟩

theorem trans {l m k : Link} (a : LinkList l m) (b : LinkList m k) : LinkList l k :=
  ⟨b.stations.trans a.stations, b.mask.trans a.mask, b.pollHoldOff.trans a.pollHoldOff,
   b.attentionLine.trans a.attentionLine⟩

theorem join (l : Link) (e : LinkEntry) : LinkList l (l.join e) := by
  unfold Link.join
  split <;> exact ⟨rfl, rfl, rfl, rfl⟩

theorem withdraw (l : Link) (n : SpotNo) (k : LinkKind) : LinkList l (l.withdraw n k) := ⟨rfl, rfl, rfl, rfl⟩

theorem markWithdrawn (l : Link) (n : SpotNo) (k : LinkKind) : LinkList l (l.markWithdrawn n k) := ⟨rfl, rfl, rfl, rfl⟩

theorem send (l : Link) : LinkList l l.send := by
  unfold Link.send
  split
  · exact refl _
  · split
    · exact ⟨rfl, rfl, rfl, rfl⟩
    · exact refl _

end LinkList

namespace Course

variable {s t u : State}

theorem refl (s : State) : Course s s := ⟨rfl, rfl, rfl, rfl, rfl, rfl, rfl, rfl, .refl _⟩

theorem trans (a : Course s t) (b : Course t u) : Course s u :=
  ⟨b.pending.trans a.pending, b.line.trans a.line, b.manifest.trans a.manifest, b.grades.trans a.grades,
   b.proof.trans a.proof, b.tickets.trans a.tickets, b.siding.trans a.siding, b.choices.trans a.choices,
   a.link.trans b.link⟩

/-- The station records stay. -/
theorem station (a : Course s t) (k : SpotNo) : t.station k = s.station k := by
  rw [State.station, State.station, a.link.stations]

/-- The grades stay. -/
theorem grade (a : Course s t) (g : GradeNo) : t.grade g = s.grade g := by
  rw [State.grade, State.grade, a.grades]

/-- The proof records stay. -/
theorem proofRecord (a : Course s t) (v : ValveIndex) : t.proofRecord v = s.proofRecord v := by
  rw [State.proofRecord, State.proofRecord, a.proof]

theorem event (a : Course s t) : Event s t := ⟨a.pending, a.line, a.manifest, a.grades, a.siding⟩

theorem setSpot (s : State) (n : SpotNo) (r : SpotRecord) : Course s (s.setSpot n r) :=
  ⟨rfl, rfl, rfl, rfl, rfl, rfl, rfl, rfl, .refl _⟩

theorem onSpot (s : State) (n : SpotNo) (f : SpotRecord → SpotRecord) : Course s (s.onSpot n f) := setSpot ..

theorem setMeter (s : State) (n : SpotNo) (m : Meter) : Course s (s.setMeter n m) :=
  ⟨rfl, rfl, rfl, rfl, rfl, rfl, rfl, rfl, .refl _⟩

theorem onMeter (s : State) (n : SpotNo) (f : Meter → Meter) : Course s (s.onMeter n f) := setMeter ..

theorem setComp (s : State) (c : Compressor) : Course s (s.setComp c) := ⟨rfl, rfl, rfl, rfl, rfl, rfl, rfl, rfl, .refl _⟩

theorem setLink (s : State) (l : Link) (h : LinkList s.link l) : Course s (s.setLink l) :=
  ⟨rfl, rfl, rfl, rfl, rfl, rfl, rfl, rfl, h⟩

theorem ite {c : Prop} [Decidable c] (a : Course s t) (b : Course s u) : Course s (if c then t else u) := by
  split <;> assumption

/-! ### The link -/

theorem join (s : State) (e : LinkEntry) : Course s (s.join e) := setLink _ _ (.join ..)

theorem request (s : State) (n : SpotNo) (t : Txn) : Course s (s.request n t) := ite (join ..) (refl _)

theorem queueInit (s : State) (n : SpotNo) : Course s (s.queueInit n) := ite (refl _) (join ..)

theorem requestClose (s : State) (n : SpotNo) : Course s (s.requestClose n) :=
  ite (setLink _ _ (((LinkList.join ..).trans (.withdraw ..)).trans (.markWithdrawn ..))) (refl _)

theorem judgePoll (s : State) : Course s s.judgePoll := ite (join ..) (refl _)

theorem judgePollIf (s : State) (b : Bool) : Course s (s.judgePollIf b) := ite (judgePoll _) (refl _)

/-! ### Valve commands -/

theorem driveOpen (s : State) (n : SpotNo) (v : ValveSet) : Course s (s.driveOpen n v) :=
  ite (refl _) ((onSpot ..).trans (request ..))

theorem openValves (s : State) (n : SpotNo) (v : ValveSet) : Course s (s.openValves n v) :=
  (setSpot ..).trans (driveOpen ..)

theorem closeValves (s : State) (n : SpotNo) : Course s (s.closeValves n) :=
  ite (setSpot ..) ((setSpot ..).trans (requestClose ..))

theorem closeDone (s : State) (n : SpotNo) : Course s (s.closeDone n) := (onSpot ..).trans (driveOpen ..)

theorem initDone (s : State) (n : SpotNo) : Course s (s.initDone n) := (onSpot ..).trans (driveOpen ..)

/-! ### Shares and transitions -/

theorem requestClosing (s : State) (n : SpotNo) : Course s (s.requestClosing n) :=
  ite (refl _) (ite ((onMeter ..).trans (onSpot ..)) ((onMeter ..).trans (request ..)))

theorem purgeRest (s : State) (n : SpotNo) : Course s (s.purgeRest n) := (closeValves ..).trans (requestClosing ..)

theorem beginTransfer (s : State) (n : SpotNo) : Course s (s.beginTransfer n) :=
  ((onSpot s n _).trans (onMeter ..)).trans (openValves ..)

theorem enterTransfer (s : State) (n : SpotNo) : Course s (s.enterTransfer n) :=
  ite ((beginTransfer ..).trans ((onSpot ..).trans ((setComp ..).trans (purgeRest ..)))) (beginTransfer ..)

theorem enterStrip (s : State) (n : SpotNo) : Course s (s.enterStrip n) := (onSpot ..).trans (openValves ..)

theorem grant (s : State) (e : QueueEntry) (rest : List QueueEntry) : Course s (s.grant e rest) := by
  unfold State.grant
  split
  · exact (setComp ..).trans (enterTransfer ..)
  · exact (setComp ..).trans (enterStrip ..)

theorem examineUpTo (bound : Nat) (s : State) : Course s (State.examineUpTo bound s) := by
  induction bound generalizing s with
  | zero => exact refl _
  | succ bound ih =>
    unfold State.examineUpTo
    split
    · exact refl _
    · split
      · exact refl _
      · split
        · exact (grant ..).trans (ih _)
        · exact ite (setComp ..) (refl _)

theorem examine (s : State) : Course s s.examine := examineUpTo ..

theorem giveUp (s : State) (n : SpotNo) : Course s (s.giveUp n) := ite ((setComp ..).trans (examine _)) (setComp ..)

theorem askShare (s : State) (n : SpotNo) (kind : Duty) : Course s (s.askShare n kind) := (setComp ..).trans (examine _)

theorem enterPurge (s : State) (n : SpotNo) (reason : Option EndReason) : Course s (s.enterPurge n reason) :=
  ((onSpot ..).trans (giveUp ..)).trans (purgeRest ..)

theorem enterHeld (s : State) (n : SpotNo) (reason : HoldReason) : Course s (s.enterHeld n reason) :=
  ((onSpot ..).trans (giveUp ..)).trans (closeValves ..)

theorem enterStartWait (s : State) (n : SpotNo) : Course s (s.enterStartWait n) := (onSpot ..).trans (askShare ..)

theorem emptyToStripWait (s : State) (n : SpotNo) : Course s (s.emptyToStripWait n) :=
  (((onSpot ..).trans (giveUp ..)).trans (closeValves ..)).trans (askShare ..)

theorem resumeStripWait (s : State) (n : SpotNo) : Course s (s.resumeStripWait n) := (onSpot ..).trans (askShare ..)

theorem trip (s : State) (n : SpotNo) (brought : List TripCause) : Course s (s.trip n brought) := by
  unfold State.trip
  split
  · exact refl _
  · exact ((onSpot ..).trans (giveUp ..)).trans (closeValves ..)

theorem takeCauses (s : State) (n : SpotNo) (brought : List TripCause) : Course s (s.takeCauses n brought) :=
  ite (trip ..) (ite (onSpot ..) (refl _))

theorem connect (s : State) (n : SpotNo) : Course s (s.connect n) := (onSpot ..).trans (takeCauses ..)

theorem enterComplete (s : State) (n : SpotNo) : Course s (s.enterComplete n) := ite (onSpot ..) (onSpot ..)

theorem moveOnInputs (s : State) (n : SpotNo) : Course s (s.moveOnInputs n) := by
  unfold State.moveOnInputs
  split
  · exact ite (connect ..) (refl _)
  · exact ite (refl _) (onSpot ..)
  · exact refl _

theorem takeOutcome (s : State) (n : SpotNo) (r : WindowReport) : Course s (s.takeOutcome n r) := by
  unfold State.takeOutcome
  split
  · exact enterPurge ..
  · exact ite (emptyToStripWait ..) (enterPurge ..)
  · exact (onSpot ..).trans (enterPurge ..)
  · exact refl _

theorem takeStationEvent (s old : State) (n : SpotNo) (extra : List TripCause) (r : Option WindowReport) :
    Course s (s.takeStationEvent old n extra r) := by
  unfold State.takeStationEvent
  have moved := (takeCauses s n (causeUnion (s.risen old n) extra)).trans (moveOnInputs _ n)
  split
  · exact moved.trans (takeOutcome ..)
  · exact moved

/-! ### Windows -/

theorem computeWindow (s : State) (n : SpotNo) (w : WindowRead) (p : Nat) (estimated : Bool) (fresh : Option Nat) :
    Course s (s.computeWindow n w p estimated fresh).1 := setMeter ..

theorem completeWindow (s : State) (n : SpotNo) (p : Nat) (estimated : Bool) (fresh : Option Nat) :
    Course s (s.completeWindow n p estimated fresh).1 := by
  unfold State.completeWindow
  split
  · exact refl _
  · exact (onMeter ..).trans (computeWindow ..)

theorem missWindow (s : State) (n : SpotNo) : Course s (s.missWindow n).1 := completeWindow ..

theorem missWindowIf (s : State) (n : SpotNo) (owed : Bool) : Course s (s.missWindowIf n owed).1 := by
  unfold State.missWindowIf
  split
  · exact missWindow ..
  · exact refl _

end Course

namespace Event

variable {s t u : State}

theorem refl (s : State) : Event s s := (Course.refl s).event

theorem trans (a : Event s t) (b : Event t u) : Event s u :=
  ⟨b.pending.trans a.pending, b.line.trans a.line, b.manifest.trans a.manifest, b.grades.trans a.grades,
   b.siding.trans a.siding⟩

theorem ite {c : Prop} [Decidable c] (a : Event s t) (b : Event s u) : Event s (if c then t else u) := by
  split <;> assumption

theorem setStation (s : State) (n : SpotNo) (r : Station) : Event s (s.setStation n r) := ⟨rfl, rfl, rfl, rfl, rfl⟩

theorem onStation (s : State) (n : SpotNo) (f : Station → Station) : Event s (s.onStation n f) := setStation ..

theorem setLink (s : State) (l : Link) : Event s (s.setLink l) := ⟨rfl, rfl, rfl, rfl, rfl⟩

theorem setTickets (s : State) (u : TicketUnit) : Event s (s.setTickets u) := ⟨rfl, rfl, rfl, rfl, rfl⟩

theorem setProofRecord (s : State) (v : ValveIndex) (p : ProofRecord) : Event s (s.setProofRecord v p) :=
  ⟨rfl, rfl, rfl, rfl, rfl⟩

theorem setStroke (s : State) (k : Option Stroke) : Event s (s.setStroke k) := ⟨rfl, rfl, rfl, rfl, rfl⟩

theorem endPurge (s : State) (n : SpotNo) : Event s (s.endPurge n) := by
  unfold State.endPurge
  dsimp only
  split
  · exact ((setTickets ..).trans (Course.onSpot ..).event).trans
      (ite (Course.enterComplete ..).event (Course.onSpot ..).event)
  · exact refl _

theorem settleClosing (s : State) (n : SpotNo) : Event s (s.settleClosing n) :=
  (Course.onSpot ..).event.trans (ite (endPurge ..) (refl _))

theorem startStroke (s : State) (v : ValveIndex) (o : StrokeOrigin) : Event s (s.startStroke v o) :=
  ((setStroke ..).trans (Course.onSpot ..).event).trans (Course.request ..).event

theorem endStroke (s : State) (k : Stroke) (drive : Bool) : Event s (s.endStroke k drive) :=
  (((setStroke s none).trans (setLink ..)).trans (Course.onSpot ..).event).trans
    (ite (Course.requestClose ..).event (refl _))

theorem abortStroke (s : State) (drive : Bool) : Event s (s.abortStroke drive) := by
  unfold State.abortStroke
  split
  · exact refl _
  · exact (setProofRecord ..).trans (endStroke ..)

theorem abortStrokeOn (s : State) (n : SpotNo) : Event s (s.abortStrokeOn n) := ite (abortStroke ..) (refl _)

theorem judgeStroke (s : State) (k : Stroke) (t : Nat) : Event s (s.judgeStroke k t) :=
  (setProofRecord ..).trans (endStroke ..)

theorem dispose (s old : State) (n : SpotNo) (missed : List LinkEntry) : Event s (s.dispose old n missed) := by
  unfold State.dispose
  exact trans (setLink s _) (trans ((Course.missWindowIf ..).trans (Course.ite (Course.onMeter ..) (Course.refl _))).event
    (trans (abortStrokeOn ..) (trans (Course.takeStationEvent ..).event
      (trans (ite (settleClosing ..) (refl _)) (Course.judgePollIf ..).event))))

theorem becomeLost (s old : State) (n : SpotNo) (missed : List LinkEntry) : Event s (s.becomeLost old n missed) :=
  (onStation ..).trans (dispose ..)

theorem foldl {α : Type} (f : State → α → State) (h : ∀ t a, Event t (f t a)) (l : List α) (s : State) :
    Event s (l.foldl f s) := by
  induction l generalizing s with
  | nil => exact refl _
  | cons a l ih => exact (h s a).trans (ih _)

theorem tellAll {α : Type} (s : State) (told : List α) (f : State → α → State) (h : ∀ t a, Event t (f t a)) :
    Event s (s.tellAll told f) :=
  Event.trans (t := { s with choices := s.choices + told.length }) ⟨rfl, rfl, rfl, rfl, rfl⟩ (foldl f h _ _)

end Event

end Sys2Proof.Machine
end

