-- ==== Sys2Proof/Laws/Transitions.lean ====
section
/-! SUPPORT. What the shared operations write in the records of the spots and in the compressor: the record a spot has
after each, and that no other spot's record changes but by a grant. -/

namespace Sys2Proof.Machine

namespace Compressor

variable (c : Compressor) (n : SpotNo)

/-! ## A spot gives up what it has of the compressor (R99, R100) -/

@[simp] theorem queue_drop : (c.drop n).queue = c.queue.filter fun e => e.spot != n := by
  simp only [drop, apply_ite Compressor.queue, ite_self]

@[simp] theorem pushHolders_drop : (c.drop n).pushHolders = c.pushHolders.filter (· != n) := by
  simp only [drop, apply_ite Compressor.pushHolders, ite_self]

@[simp] theorem pullHolder_drop :
    (c.drop n).pullHolder = if c.pullHolder == some n then none else c.pullHolder := by
  simp only [drop, apply_ite Compressor.pullHolder, ite_self]

@[simp] theorem position_drop : (c.drop n).position = c.position := by
  simp only [drop, apply_ite Compressor.position, ite_self]

@[simp] theorem target_drop : (c.drop n).target = c.target := by
  simp only [drop, apply_ite Compressor.target, ite_self]

@[simp] theorem spacing_drop : (c.drop n).spacing = c.spacing := by
  simp only [drop, apply_ite Compressor.spacing, ite_self]

@[simp] theorem changeover_drop : (c.drop n).changeover = c.changeover := by
  simp only [drop, apply_ite Compressor.changeover, ite_self]

@[simp] theorem pushGrantAge_drop : (c.drop n).pushGrantAge = c.pushGrantAge := by
  simp only [drop, apply_ite Compressor.pushGrantAge, ite_self]

@[simp] theorem age_drop : (c.drop n).age = c.age := by
  simp only [drop, apply_ite Compressor.age, ite_self]

/-- The mode becomes IDLE when the spot held a share and no holder remains (R99). -/
theorem mode_drop : (c.drop n).mode =
    if c.holds n && (c.pushHolders.filter (· != n)).isEmpty && (c.drop n).pullHolder.isNone then .idle
    else c.mode := by
  rw [pullHolder_drop]
  simp only [drop, apply_ite Compressor.mode]

end Compressor

namespace State

variable (s : State) (n k : SpotNo)

/-! ## Requests to the link leave the spots, the meters and the compressor -/

@[simp] theorem spot_join (e : LinkEntry) : (s.join e).spot k = s.spot k := rfl

@[simp] theorem meter_join (e : LinkEntry) : (s.join e).meter k = s.meter k := rfl

@[simp] theorem comp_join (e : LinkEntry) : (s.join e).comp = s.comp := rfl

@[simp] theorem spot_request (t : Txn) : (s.request n t).spot k = s.spot k := by
  unfold request; split <;> rfl

@[simp] theorem meter_request (t : Txn) : (s.request n t).meter k = s.meter k := by
  unfold request; split <;> rfl

@[simp] theorem comp_request (t : Txn) : (s.request n t).comp = s.comp := by
  unfold request; split <;> rfl

@[simp] theorem spot_queueInit : (s.queueInit n).spot k = s.spot k := by
  unfold queueInit; split <;> rfl

@[simp] theorem meter_queueInit : (s.queueInit n).meter k = s.meter k := by
  unfold queueInit; split <;> rfl

@[simp] theorem comp_queueInit : (s.queueInit n).comp = s.comp := by
  unfold queueInit; split <;> rfl

@[simp] theorem spot_requestClose : (s.requestClose n).spot k = s.spot k := by
  unfold requestClose; split <;> rfl

@[simp] theorem meter_requestClose : (s.requestClose n).meter k = s.meter k := by
  unfold requestClose; split <;> rfl

@[simp] theorem comp_requestClose : (s.requestClose n).comp = s.comp := by
  unfold requestClose; split <;> rfl

@[simp] theorem spot_judgePoll : s.judgePoll.spot k = s.spot k := by
  unfold judgePoll; split <;> rfl

@[simp] theorem meter_judgePoll : s.judgePoll.meter k = s.meter k := by
  unfold judgePoll; split <;> rfl

@[simp] theorem comp_judgePoll : s.judgePoll.comp = s.comp := by
  unfold judgePoll; split <;> rfl

@[simp] theorem spot_judgePollIf (b : Bool) : (s.judgePollIf b).spot k = s.spot k := by
  unfold judgePollIf; split <;> simp

@[simp] theorem meter_judgePollIf (b : Bool) : (s.judgePollIf b).meter k = s.meter k := by
  unfold judgePollIf; split <;> simp

@[simp] theorem comp_judgePollIf (b : Bool) : (s.judgePollIf b).comp = s.comp := by
  unfold judgePollIf; split <;> simp

/-! ## Valve commands -/

/-- The record after a command that opens valves of a set (R27). -/
def openRecord (r : SpotRecord) (set : ValveSet) : SpotRecord :=
  let deferred := r.openDeferred.union (r.valvesIn set fun c => c == ValveCommand.closing)
  let opened := r.valvesIn set fun c => c == ValveCommand.closed
  if opened.isEmpty then { r with openDeferred := deferred }
  else { r with openDeferred := deferred }.startOpening opened

theorem spot_driveOpen (set : ValveSet) :
    (s.driveOpen n set).spot k =
      if k = n then (if set.isEmpty then s.spot n else (s.spot n).startOpening set) else s.spot k := by
  unfold driveOpen
  split <;> by_cases h : k = n <;> simp_all [spot_setSpot]

@[simp] theorem meter_driveOpen (set : ValveSet) : (s.driveOpen n set).meter k = s.meter k := by
  unfold driveOpen; split <;> simp

@[simp] theorem comp_driveOpen (set : ValveSet) : (s.driveOpen n set).comp = s.comp := by
  unfold driveOpen; split <;> simp

theorem spot_openValves (set : ValveSet) :
    (s.openValves n set).spot k = if k = n then openRecord (s.spot n) set else s.spot k := by
  unfold openValves
  rw [spot_driveOpen]
  by_cases h : k = n
  · subst h
    rw [if_pos rfl, if_pos rfl, spot_setSpot_self]
    rfl
  · simp [h, spot_setSpot]

@[simp] theorem meter_openValves (set : ValveSet) : (s.openValves n set).meter k = s.meter k := by
  simp [openValves]

@[simp] theorem comp_openValves (set : ValveSet) : (s.openValves n set).comp = s.comp := by
  simp [openValves]

theorem spot_closeValves :
    (s.closeValves n).spot k = if k = n then (s.spot n).startClosing else s.spot k := by
  unfold closeValves
  dsimp only
  split <;> simp [spot_setSpot]

@[simp] theorem meter_closeValves : (s.closeValves n).meter k = s.meter k := by
  unfold closeValves; dsimp only; split <;> simp

@[simp] theorem comp_closeValves : (s.closeValves n).comp = s.comp := by
  unfold closeValves; dsimp only; split <;> simp

/-! ## The closing read -/

/-- Whether a request for a closing read is abandoned at once: none is outstanding and the station is LOST (R154). -/
def abandonsAtOnce : Bool := !(s.meter n).closingRequest && (s.station n).status == .lost

theorem spot_requestClosing :
    (s.requestClosing n).spot k =
      if k = n ∧ s.abandonsAtOnce n then { s.spot n with closingRead := .settled } else s.spot k := by
  unfold requestClosing abandonsAtOnce
  by_cases hc : (s.meter n).closingRequest <;> by_cases hl : (s.station n).status == .lost <;>
    by_cases h : k = n <;> simp [hc, hl, h, spot_setSpot]

@[simp] theorem comp_requestClosing : (s.requestClosing n).comp = s.comp := by
  unfold requestClosing; split
  · rfl
  · split <;> simp

theorem meter_requestClosing_ne (h : k ≠ n) : (s.requestClosing n).meter k = s.meter k := by
  unfold requestClosing; split
  · rfl
  · split <;> simp [meter_setMeter, h]

/-- The record of a spot whose valves are commanded closed and whose closing read is asked for (R22). -/
def purgedRecord (r : SpotRecord) : SpotRecord :=
  if s.abandonsAtOnce n then { r.startClosing with closingRead := .settled } else r.startClosing

theorem abandonsAtOnce_closeValves : (s.closeValves n).abandonsAtOnce n = s.abandonsAtOnce n := by
  simp [abandonsAtOnce, (Course.closeValves s n).station]

theorem spot_purgeRest :
    (s.purgeRest n).spot k = if k = n then s.purgedRecord n (s.spot n) else s.spot k := by
  unfold purgeRest purgedRecord
  rw [spot_requestClosing, abandonsAtOnce_closeValves, spot_closeValves, spot_closeValves]
  by_cases h : k = n <;> by_cases ha : s.abandonsAtOnce n <;> simp [h, ha]

@[simp] theorem comp_purgeRest : (s.purgeRest n).comp = s.comp := by simp [purgeRest]

theorem meter_purgeRest_ne (h : k ≠ n) : (s.purgeRest n).meter k = s.meter k := by
  simp [purgeRest, meter_requestClosing_ne, h]

/-! ## Grants -/

theorem spot_beginTransfer :
    (s.beginTransfer n).spot k =
      if k = n then openRecord ((s.spot n).toTransfer s.siding.config.window) .both else s.spot k := by
  unfold beginTransfer
  rw [spot_openValves]
  by_cases h : k = n <;> simp [h, spot_setSpot]

@[simp] theorem comp_beginTransfer : (s.beginTransfer n).comp = s.comp := by simp [beginTransfer]

theorem meter_beginTransfer_ne (h : k ≠ n) : (s.beginTransfer n).meter k = s.meter k := by
  simp [beginTransfer, meter_setMeter, h]

theorem spot_enterTransfer_ne (h : k ≠ n) : (s.enterTransfer n).spot k = s.spot k := by
  unfold enterTransfer
  dsimp only
  split <;> simp [spot_purgeRest, spot_beginTransfer, spot_setSpot, h]

theorem meter_enterTransfer_ne (h : k ≠ n) : (s.enterTransfer n).meter k = s.meter k := by
  unfold enterTransfer
  dsimp only
  split <;> simp [meter_purgeRest_ne, meter_beginTransfer_ne, h]

theorem spot_enterStrip_ne (h : k ≠ n) : (s.enterStrip n).spot k = s.spot k := by
  simp [enterStrip, spot_openValves, spot_setSpot, h]

@[simp] theorem meter_enterStrip : (s.enterStrip n).meter k = s.meter k := by simp [enterStrip]

@[simp] theorem comp_enterStrip : (s.enterStrip n).comp = s.comp := by simp [enterStrip]

theorem spot_grant_ne (e : QueueEntry) (rest : List QueueEntry) (h : k ≠ e.spot) :
    (s.grant e rest).spot k = s.spot k := by
  unfold grant
  dsimp only
  split
  · rw [spot_enterTransfer_ne _ _ _ h, spot_setComp]
  · rw [spot_enterStrip_ne _ _ _ h, spot_setComp]

theorem meter_grant_ne (e : QueueEntry) (rest : List QueueEntry) (h : k ≠ e.spot) :
    (s.grant e rest).meter k = s.meter k := by
  unfold grant
  dsimp only
  split
  · rw [meter_enterTransfer_ne _ _ _ h, meter_setComp]
  · rw [meter_enterStrip, meter_setComp]

/-- The queue after a grant of its head is the rest, and a spot given up at once has no entry in it (R98, R16). -/
theorem mem_queue_grant (e : QueueEntry) (rest : List QueueEntry) (q : QueueEntry)
    (h : q ∈ (s.grant e rest).comp.queue) : q ∈ rest := by
  unfold grant enterTransfer at h
  dsimp only at h
  rcases hk : e.kind with _ | _ <;> simp only [hk] at h
  · split at h
    · simp [Compressor.drop] at h
      split at h <;> simp [Compressor.grant, hk] at h <;> exact h.1
    · simpa [Compressor.grant, hk] using h
  · simpa [Compressor.grant, hk] using h

/-- An examination leaves the record of a spot that has no queue entry (R92, R98). -/
theorem spot_examineUpTo (bound : Nat) (h : ∀ e ∈ s.comp.queue, e.spot ≠ k) :
    (examineUpTo bound s).spot k = s.spot k ∧ (examineUpTo bound s).meter k = s.meter k := by
  induction bound generalizing s with
  | zero => exact ⟨rfl, rfl⟩
  | succ bound ih =>
    unfold examineUpTo
    split
    · exact ⟨rfl, rfl⟩
    · split
      · exact ⟨rfl, rfl⟩
      · rename_i e rest hq
        have hk : k ≠ e.spot := (h e (by rw [hq]; exact List.mem_cons_self)).symm
        split
        · have := ih (s.grant e rest) fun q hm => h q (by
            rw [hq]; exact List.mem_cons_of_mem _ (s.mem_queue_grant e rest q hm))
          rw [this.1, this.2, spot_grant_ne _ _ _ _ hk, meter_grant_ne _ _ _ _ hk]
          exact ⟨rfl, rfl⟩
        · split <;> exact ⟨rfl, rfl⟩

/-- While grants are frozen an examination changes nothing (R93). -/
theorem examine_of_frozen (h : s.frozen = true) : s.examine = s := by
  unfold examine examineUpTo
  rw [if_pos h]

theorem spot_examine (h : ∀ e ∈ s.comp.queue, e.spot ≠ k) : s.examine.spot k = s.spot k :=
  (spot_examineUpTo s k _ h).1

theorem meter_examine (h : ∀ e ∈ s.comp.queue, e.spot ≠ k) : s.examine.meter k = s.meter k :=
  (spot_examineUpTo s k _ h).2

/-- A spot that gives up its claims has no queue entry left (R99, R100). -/
theorem noEntry_drop (c : Compressor) (e : QueueEntry) (h : e ∈ (c.drop n).queue) : e.spot ≠ n := by
  rw [Compressor.queue_drop] at h
  simpa using (List.mem_filter.mp h).2

/-- A spot that gives up its claims keeps its record: grants can go to others alone (R92, R99, R100). -/
theorem spot_giveUp : (s.giveUp n).spot n = s.spot n := by
  unfold giveUp
  dsimp only
  split
  · rw [spot_examine _ _ (by simp), spot_setComp]
  · rfl

theorem meter_giveUp : (s.giveUp n).meter n = s.meter n := by
  unfold giveUp
  dsimp only
  split
  · rw [meter_examine _ _ (by simp), meter_setComp]
  · rfl

/-! ## The records after the transitions -/

/-- Entry to PURGE (R22): the record, with both valves commanded closed. -/
theorem spot_enterPurge (reason : Option EndReason) :
    (s.enterPurge n reason).spot n = s.purgedRecord n ((s.spot n).toPurge reason) := by
  unfold enterPurge
  rw [spot_purgeRest, if_pos rfl, spot_giveUp, onSpot_eq, spot_setSpot_self]
  have h : ((s.setSpot n ((s.spot n).toPurge reason)).giveUp n).abandonsAtOnce n = s.abandonsAtOnce n := by
    simp [abandonsAtOnce, meter_giveUp, (Course.giveUp _ n).station]
  simp only [purgedRecord, h]

/-- Entry to HELD (R20), with both valves commanded closed. -/
theorem spot_enterHeld (reason : HoldReason) :
    (s.enterHeld n reason).spot n = ((s.spot n).toHeld reason).startClosing := by
  unfold enterHeld
  rw [spot_closeValves, if_pos rfl, spot_giveUp, onSpot_eq, spot_setSpot_self]

theorem meter_enterHeld (reason : HoldReason) : (s.enterHeld n reason).meter n = s.meter n := by
  simp [enterHeld, meter_giveUp]

/-- A trip on a non-empty list of causes (R26, R113). -/
theorem spot_trip (first : TripCause) (rest : List TripCause) :
    (s.trip n (first :: rest)).spot n =
      ((s.spot n).toTripped ⟨first, causeUnion (first :: rest) (s.levelsPresent n)⟩).startClosing := by
  simp only [trip]
  rw [spot_closeValves, if_pos rfl, spot_giveUp, onSpot_eq, spot_setSpot_self]

theorem meter_trip (brought : List TripCause) : (s.trip n brought).meter n = s.meter n := by
  unfold trip
  split
  · rfl
  · simp [meter_giveUp]

theorem meter_takeCauses (brought : List TripCause) : (s.takeCauses n brought).meter n = s.meter n := by
  unfold takeCauses
  split
  · exact meter_trip ..
  · split <;> simp

/-- Asking for a share changes only spots with queue entries, the asker among them (R90, R92). -/
theorem meter_askShare_ne (kind : Duty) (h : k ≠ n) (hq : ∀ e ∈ s.comp.queue, e.spot ≠ k) :
    (s.askShare n kind).spot k = s.spot k ∧ (s.askShare n kind).meter k = s.meter k := by
  unfold askShare
  have hq' : ∀ e ∈ (s.setComp { s.comp with queue := s.comp.queue ++ [⟨n, kind⟩] }).comp.queue, e.spot ≠ k := by
    intro e he
    simp only [comp_setComp, List.mem_append, List.mem_singleton] at he
    rcases he with he | he
    · exact hq e he
    · rw [he]; exact h.symm
  exact ⟨by rw [spot_examine _ _ hq', spot_setComp], by rw [meter_examine _ _ hq', meter_setComp]⟩

end State

end Sys2Proof.Machine
end

