-- ==== Sys2Proof/Laws/Cars.lean ====
section
/-! SUPPORT. What the shared operations do to the car records: they leave the manifest, and a spot keeps its car or loses
it; none binds a car. -/

namespace Sys2Proof.Machine

/-- The manifest stays, and each spot keeps its car or loses it (R8, R23, R25). -/
structure Unbinds (s t : State) : Prop where
  manifest : t.manifest = s.manifest
  cars : ∀ n, (t.spot n).car = (s.spot n).car ∨ (t.spot n).car = none

namespace Unbinds

variable {s t u : State}

theorem refl (s : State) : Unbinds s s := ⟨rfl, fun _ => .inl rfl⟩

theorem trans (a : Unbinds s t) (b : Unbinds t u) : Unbinds s u :=
  ⟨b.manifest.trans a.manifest, fun n => by
    rcases b.cars n with h | h
    · rw [h]; exact a.cars n
    · exact .inr h⟩

/-- Car ids stay held once, and the records valid, where no car is bound (R36). -/
theorem holds (a : Unbinds s t) (h : CarsHold s) : CarsHold t := by
  have back : ∀ n c, (t.spot n).car = some c → (s.spot n).car = some c := by
    intro n c hc
    rcases a.cars n with e | e
    · rw [← e]; exact hc
    · rw [e] at hc; cases hc
  refine ⟨?_, fun n c hc => h.validAtSpots n c (back n c hc), ?_, fun n k c d hk hc hd =>
    h.onceAtSpots n k c d hk (back n c hc) (back k d hd), ?_⟩
  · rw [a.manifest]; exact h.validInManifest
  · rw [a.manifest]; exact h.onceInManifest
  · rw [a.manifest]; exact fun c hc n d hd => h.onceAcross c hc n d (back n d hd)

/-- A change that touches neither the manifest nor a spot. -/
theorem of_same (manifest : t.manifest = s.manifest) (spots : ∀ n, t.spot n = s.spot n) : Unbinds s t :=
  ⟨manifest, fun n => by rw [spots]; exact .inl rfl⟩

theorem ite {c : Prop} [Decidable c] (a : Unbinds s t) (b : Unbinds s u) : Unbinds s (if c then t else u) := by
  split <;> assumption

theorem setSpot (s : State) (n : SpotNo) (r : SpotRecord) (h : r.car = (s.spot n).car ∨ r.car = none) :
    Unbinds s (s.setSpot n r) :=
  ⟨rfl, fun k => by
    rw [State.spot_setSpot]
    split
    · subst_vars; exact h
    · exact .inl rfl⟩

/-- A change of a spot record that keeps or drops its car. -/
theorem onSpot (s : State) (n : SpotNo) (f : SpotRecord → SpotRecord)
    (h : (f (s.spot n)).car = (s.spot n).car ∨ (f (s.spot n)).car = none) :
    Unbinds s (s.onSpot n f) := setSpot _ _ _ h

/-- A change of a spot record that keeps its car. -/
theorem onKept (s : State) (n : SpotNo) (f : SpotRecord → SpotRecord) (h : (f (s.spot n)).car = (s.spot n).car) :
    Unbinds s (s.onSpot n f) := onSpot _ _ _ (.inl h)

/-- A valve's command state is no part of the car. -/
theorem car_setValve (r : SpotRecord) (side : ValveSide) (c : ValveCommand) : (r.setValve side c).car = r.car := by
  cases side <;> rfl

theorem setComp (s : State) (c : Compressor) : Unbinds s (s.setComp c) := of_same rfl fun _ => rfl

theorem setMeter (s : State) (n : SpotNo) (m : Meter) : Unbinds s (s.setMeter n m) := of_same rfl fun _ => rfl

theorem onMeter (s : State) (n : SpotNo) (f : Meter → Meter) : Unbinds s (s.onMeter n f) := setMeter ..

theorem setStation (s : State) (n : SpotNo) (r : Station) : Unbinds s (s.setStation n r) := of_same rfl fun _ => rfl

theorem onStation (s : State) (n : SpotNo) (f : Station → Station) : Unbinds s (s.onStation n f) := setStation ..

theorem setProofRecord (s : State) (v : ValveIndex) (p : ProofRecord) : Unbinds s (s.setProofRecord v p) :=
  of_same rfl fun _ => rfl

theorem setStroke (s : State) (k : Option Stroke) : Unbinds s (s.setStroke k) := of_same rfl fun _ => rfl

theorem setSiding (s : State) (d : Siding) : Unbinds s (s.setSiding d) := of_same rfl fun _ => rfl

theorem setLink (s : State) (l : Link) : Unbinds s (s.setLink l) := of_same rfl fun _ => rfl

theorem setTickets (s : State) (u : TicketUnit) : Unbinds s (s.setTickets u) := of_same rfl fun _ => rfl

theorem setLine (s : State) (l : LineUnit) : Unbinds s (s.setLine l) := of_same rfl fun _ => rfl

theorem setGrade (s : State) (g : GradeNo) (r : Grade) : Unbinds s (s.setGrade g r) := of_same rfl fun _ => rfl

/-! ### The link -/

theorem join (s : State) (e : LinkEntry) : Unbinds s (s.join e) := setLink ..

theorem request (s : State) (n : SpotNo) (t : Txn) : Unbinds s (s.request n t) := ite (join ..) (refl _)

theorem queueInit (s : State) (n : SpotNo) : Unbinds s (s.queueInit n) := ite (refl _) (join ..)

theorem requestClose (s : State) (n : SpotNo) : Unbinds s (s.requestClose n) :=
  ite (setLink ..) (refl _)

theorem judgePoll (s : State) : Unbinds s s.judgePoll := ite (join ..) (refl _)

theorem judgePollIf (s : State) (b : Bool) : Unbinds s (s.judgePollIf b) := ite (judgePoll _) (refl _)

/-! ### Valves, shares, transitions -/

theorem driveOpen (s : State) (n : SpotNo) (v : ValveSet) : Unbinds s (s.driveOpen n v) :=
  ite (refl _) ((onKept _ _ _ (by rfl)).trans (request ..))

theorem openValves (s : State) (n : SpotNo) (v : ValveSet) : Unbinds s (s.openValves n v) :=
  (setSpot _ _ _ (by exact .inl rfl)).trans (driveOpen ..)

theorem closeValves (s : State) (n : SpotNo) : Unbinds s (s.closeValves n) :=
  ite (setSpot _ _ _ (by exact .inl rfl)) ((setSpot _ _ _ (by exact .inl rfl)).trans (requestClose ..))

theorem closeDone (s : State) (n : SpotNo) : Unbinds s (s.closeDone n) :=
  (onKept _ _ _ (by rfl)).trans (driveOpen ..)

theorem initDone (s : State) (n : SpotNo) : Unbinds s (s.initDone n) :=
  (onKept _ _ _ (by rfl)).trans (driveOpen ..)

theorem requestClosing (s : State) (n : SpotNo) : Unbinds s (s.requestClosing n) :=
  ite (refl _) (ite ((onMeter ..).trans (onKept _ _ _ (by rfl))) ((onMeter ..).trans (request ..)))

theorem purgeRest (s : State) (n : SpotNo) : Unbinds s (s.purgeRest n) := (closeValves ..).trans (requestClosing ..)

theorem beginTransfer (s : State) (n : SpotNo) : Unbinds s (s.beginTransfer n) :=
  ((onKept s n (·.toTransfer s.siding.config.window) rfl).trans (onMeter ..)).trans (openValves ..)

theorem enterTransfer (s : State) (n : SpotNo) : Unbinds s (s.enterTransfer n) :=
  ite ((beginTransfer ..).trans ((onKept _ _ _ (by rfl)).trans ((setComp ..).trans (purgeRest ..)))) (beginTransfer ..)

theorem grant (s : State) (e : QueueEntry) (rest : List QueueEntry) : Unbinds s (s.grant e rest) := by
  unfold State.grant
  split
  · exact (setComp ..).trans (enterTransfer ..)
  · exact (setComp ..).trans ((onKept _ _ _ (by rfl)).trans (openValves ..))

theorem examineUpTo (bound : Nat) (s : State) : Unbinds s (State.examineUpTo bound s) := by
  induction bound generalizing s with
  | zero => exact refl _
  | succ bound ih =>
    unfold State.examineUpTo
    split
    · exact refl _
    · split
      · exact refl _
      · split
        · exact (grant ..).trans (ih _)
        · exact ite (setComp ..) (refl _)

theorem examine (s : State) : Unbinds s s.examine := examineUpTo ..

theorem giveUp (s : State) (n : SpotNo) : Unbinds s (s.giveUp n) := ite ((setComp ..).trans (examine _)) (setComp ..)

theorem askShare (s : State) (n : SpotNo) (kind : Duty) : Unbinds s (s.askShare n kind) := (setComp ..).trans (examine _)

theorem enterPurge (s : State) (n : SpotNo) (reason : Option EndReason) : Unbinds s (s.enterPurge n reason) :=
  ((onKept _ _ _ (by rfl)).trans (giveUp ..)).trans (purgeRest ..)

theorem enterHeld (s : State) (n : SpotNo) (reason : HoldReason) : Unbinds s (s.enterHeld n reason) :=
  ((onKept _ _ _ (by rfl)).trans (giveUp ..)).trans (closeValves ..)

theorem enterStartWait (s : State) (n : SpotNo) : Unbinds s (s.enterStartWait n) :=
  (onKept _ _ _ (by rfl)).trans (askShare ..)

theorem emptyToStripWait (s : State) (n : SpotNo) : Unbinds s (s.emptyToStripWait n) :=
  (((onKept _ _ _ (by rfl)).trans (giveUp ..)).trans (closeValves ..)).trans (askShare ..)

theorem resumeStripWait (s : State) (n : SpotNo) : Unbinds s (s.resumeStripWait n) :=
  (onKept _ _ _ (by rfl)).trans (askShare ..)

theorem trip (s : State) (n : SpotNo) (brought : List TripCause) : Unbinds s (s.trip n brought) := by
  unfold State.trip
  split
  · exact refl _
  · exact ((onKept _ _ _ (by rfl)).trans (giveUp ..)).trans (closeValves ..)

theorem takeCauses (s : State) (n : SpotNo) (brought : List TripCause) : Unbinds s (s.takeCauses n brought) :=
  ite (trip ..) (ite (onKept _ _ _ (by rfl)) (refl _))

theorem connect (s : State) (n : SpotNo) : Unbinds s (s.connect n) :=
  (onKept _ _ _ (by rfl)).trans (takeCauses ..)

theorem enterComplete (s : State) (n : SpotNo) : Unbinds s (s.enterComplete n) :=
  ite (onKept _ _ _ (by rfl)) (onSpot _ _ _ (.inr rfl))

theorem moveOnInputs (s : State) (n : SpotNo) : Unbinds s (s.moveOnInputs n) := by
  unfold State.moveOnInputs
  split
  · exact ite (connect ..) (refl _)
  · exact ite (refl _) (onSpot _ _ _ (.inr rfl))
  · exact refl _

theorem takeOutcome (s : State) (n : SpotNo) (r : WindowReport) : Unbinds s (s.takeOutcome n r) := by
  unfold State.takeOutcome
  split
  · exact enterPurge ..
  · exact ite (emptyToStripWait ..) (enterPurge ..)
  · exact (onKept _ _ _ (by rfl)).trans (enterPurge ..)
  · exact refl _

theorem takeStationEvent (s old : State) (n : SpotNo) (extra : List TripCause) (r : Option WindowReport) :
    Unbinds s (s.takeStationEvent old n extra r) := by
  unfold State.takeStationEvent
  have moved := (takeCauses s n (causeUnion (s.risen old n) extra)).trans (moveOnInputs _ n)
  split
  · exact moved.trans (takeOutcome ..)
  · exact moved

/-! ### Windows, tickets, strokes, lost stations -/

theorem computeWindow (s : State) (n : SpotNo) (w : WindowRead) (p : Nat) (estimated : Bool) (fresh : Option Nat) :
    Unbinds s (s.computeWindow n w p estimated fresh).1 := setMeter ..

theorem completeWindow (s : State) (n : SpotNo) (p : Nat) (estimated : Bool) (fresh : Option Nat) :
    Unbinds s (s.completeWindow n p estimated fresh).1 := by
  unfold State.completeWindow
  split
  · exact refl _
  · exact (onMeter ..).trans (computeWindow ..)

theorem missWindow (s : State) (n : SpotNo) : Unbinds s (s.missWindow n).1 := completeWindow ..

theorem missWindowIf (s : State) (n : SpotNo) (owed : Bool) : Unbinds s (s.missWindowIf n owed).1 := by
  unfold State.missWindowIf
  split
  · exact missWindow ..
  · exact refl _

theorem endPurge (s : State) (n : SpotNo) : Unbinds s (s.endPurge n) := by
  unfold State.endPurge
  dsimp only
  split
  · exact ((setTickets ..).trans (onSpot _ _ _ (.inr rfl))).trans (ite (enterComplete ..) (onKept _ _ _ (by rfl)))
  · exact refl _

theorem settleClosing (s : State) (n : SpotNo) : Unbinds s (s.settleClosing n) :=
  (onKept _ _ _ (by rfl)).trans (ite (endPurge ..) (refl _))

theorem startStroke (s : State) (v : ValveIndex) (o : StrokeOrigin) : Unbinds s (s.startStroke v o) :=
  ((setStroke ..).trans (onKept _ _ _ (car_setValve ..))).trans (request ..)

theorem endStroke (s : State) (k : Stroke) (drive : Bool) : Unbinds s (s.endStroke k drive) := by
  have step : Unbinds (s.setStroke none) ((s.setStroke none).setLink
      (((s.setStroke none).link.withdraw (valveSpot k.valve) .stroke).markWithdrawn (valveSpot k.valve) .stroke)) := setLink ..
  exact (((setStroke s none).trans step).trans (onKept _ _ _ (car_setValve ..))).trans (ite (requestClose ..) (refl _))

theorem abortStroke (s : State) (drive : Bool) : Unbinds s (s.abortStroke drive) := by
  unfold State.abortStroke
  split
  · exact refl _
  · exact (setProofRecord ..).trans (endStroke ..)

theorem abortStrokeOn (s : State) (n : SpotNo) : Unbinds s (s.abortStrokeOn n) := ite (abortStroke ..) (refl _)

theorem judgeStroke (s : State) (k : Stroke) (t : Nat) : Unbinds s (s.judgeStroke k t) :=
  (setProofRecord ..).trans (endStroke ..)

theorem dispose (s old : State) (n : SpotNo) (missed : List LinkEntry) : Unbinds s (s.dispose old n missed) := by
  unfold State.dispose
  exact trans (setLink s _) (trans ((missWindowIf ..).trans (ite (onMeter ..) (refl _)))
    (trans (abortStrokeOn ..) (trans (takeStationEvent ..)
      (trans (ite (settleClosing ..) (refl _)) (judgePollIf ..)))))

theorem becomeLost (s old : State) (n : SpotNo) (missed : List LinkEntry) : Unbinds s (s.becomeLost old n missed) :=
  (onStation ..).trans (dispose ..)

theorem foldl {α : Type} (f : State → α → State) (h : ∀ t a, Unbinds t (f t a)) (l : List α) (s : State) :
    Unbinds s (l.foldl f s) := by
  induction l generalizing s with
  | nil => exact refl _
  | cons a l ih => exact (h s a).trans (ih _)

theorem tellAll {α : Type} (s : State) (told : List α) (f : State → α → State) (h : ∀ t a, Unbinds t (f t a)) :
    Unbinds s (s.tellAll told f) :=
  Unbinds.trans (t := { s with choices := s.choices + told.length }) (of_same rfl fun _ => rfl) (foldl f h _ _)

end Unbinds

end Sys2Proof.Machine
end

