-- ==== Sys2Proof/Laws/Releases.lean ====
section
/-! SUPPORT. What a spot's release of its share or queue entry leaves: the compressor, the other spots and the link are as
the release alone leaves them, whatever the spot's own record becomes (R92, R99, R100); and what the releases of several
spots leave of the compressor, in any order. -/

namespace Sys2Proof.Machine

/-! ## What the operations of a spot change on the link (R148, R149) -/

namespace LinkOf

theorem refl (l : Link) (touched : List SpotNo) : LinkOf l l touched := ⟨.refl _, rfl, .inl rfl⟩

theorem trans {l m k : Link} {touched : List SpotNo} (a : LinkOf l m touched) (b : LinkOf m k touched) :
    LinkOf l k touched := by
  refine ⟨a.toLinkList.trans b.toLinkList, b.entries.trans a.entries, ?_⟩
  rcases a.flight with h | ⟨f, n, hf, hn, ht, hm⟩
  · rw [← h]
    exact b.flight
  · refine .inr ⟨f, n, hf, hn, ht, ?_⟩
    rcases b.flight with h | ⟨g, _, hg, _, _, hk⟩
    · rw [h, hm]
    · rw [hm, Option.some.injEq] at hg
      rw [hk, ← hg]

/-- A change of what some stations have is one of what more stations have. -/
theorem mono {l m : Link} {a b : List SpotNo} (h : LinkOf l m a) (sub : a ⊆ b) : LinkOf l m b := by
  refine ⟨h.toLinkList, ?_, ?_⟩
  · have e : ∀ x : List LinkEntry, (x.filter fun e => e.station.all fun n => n ∉ b) =
        (x.filter fun e => e.station.all fun n => n ∉ a).filter fun e => e.station.all fun n => n ∉ b := by
      intro x
      rw [List.filter_filter]
      refine List.filter_congr fun e _ => ?_
      cases e.station with
      | none => rfl
      | some n =>
        by_cases hb : n ∈ b
        · simp [hb]
        · have ha : n ∉ a := fun x => hb (sub x)
          simp [ha, hb]
    rw [e, h.entries, ← e]
  · rcases h.flight with h | ⟨f, n, hf, hn, ht, hm⟩
    · exact .inl h
    · exact .inr ⟨f, n, hf, hn, sub ht, hm⟩

/-- A change of the list that leaves the entries of every other station (R148). -/
theorem of_entries {l : Link} {touched : List SpotNo} (entries : List LinkEntry)
    (h : (entries.filter fun e => e.station.all fun n => n ∉ touched) =
      l.entries.filter fun e => e.station.all fun n => n ∉ touched) :
    LinkOf l { l with entries := entries } touched := ⟨⟨rfl, rfl, rfl, rfl⟩, h, .inl rfl⟩

theorem join (l : Link) (e : LinkEntry) (n : SpotNo) (h : e.station = some n) : LinkOf l (l.join e) [n] := by
  unfold Link.join
  split
  · refine of_entries _ ?_
    rw [List.filter_map]
    have same : ((fun e : LinkEntry => e.station.all fun k => k ∉ [n]) ∘
        fun p : LinkEntry => if p.isPair e.station e.txn.kind then p.absorb e else p) = fun e => e.station.all fun k => k ∉ [n] := by
      funext p
      simp only [Function.comp]
      split <;> rfl
    rw [same]
    conv_rhs => rw [← List.map_id (l.entries.filter _)]
    refine List.map_congr_left fun p hp => ?_
    have := (List.mem_filter.1 hp).2
    split
    · rename_i hk
      simp only [LinkEntry.isPair, Bool.and_eq_true, beq_iff_eq, h] at hk
      simp [hk.1] at this
    · rfl
  · exact of_entries _ (by simp [List.filter_append, h])

theorem withdraw (l : Link) (n : SpotNo) (k : LinkKind) : LinkOf l (l.withdraw n k) [n] := by
  refine of_entries _ ?_
  rw [List.filter_filter]
  refine List.filter_congr fun e _ => ?_
  cases h : e.station with
  | none => simp [LinkEntry.isPair, h]
  | some m =>
    by_cases hm : m = n
    · simp [hm]
    · simp [LinkEntry.isPair, h, hm]

theorem markWithdrawn (l : Link) (n : SpotNo) (k : LinkKind) : LinkOf l (l.markWithdrawn n k) [n] := by
  refine ⟨.markWithdrawn .., rfl, ?_⟩
  unfold Link.markWithdrawn
  cases hf : l.inFlight with
  | none => exact .inl rfl
  | some f =>
    by_cases hp : (f.entry.isPair (some n) k && f.mark == .live) = true
    · refine .inr ⟨f, n, rfl, ?_, List.mem_singleton.2 rfl, ?_⟩
      · simp only [LinkEntry.isPair, Bool.and_eq_true, beq_iff_eq] at hp
        exact hp.1.1
      · rw [Option.map_some, if_pos hp]
    · exact .inl (by rw [Option.map_some, if_neg hp])

theorem ite {c : Prop} [Decidable c] {l : Link} {s t : State} {touched : List SpotNo} (a : LinkOf l s.link touched)
    (b : LinkOf l t.link touched) : LinkOf l (if c then s else t).link touched := by
  split <;> assumption

theorem request (s : State) (n : SpotNo) (t : Txn) : LinkOf s.link (s.request n t).link [n] :=
  ite (join _ _ n rfl) (refl ..)

theorem requestClose (s : State) (n : SpotNo) : LinkOf s.link (s.requestClose n).link [n] :=
  ite (((join _ (newEntry n .close) n rfl).trans (withdraw ..)).trans (markWithdrawn ..)) (refl ..)

theorem driveOpen (s : State) (n : SpotNo) (set : ValveSet) : LinkOf s.link (s.driveOpen n set).link [n] :=
  ite (refl ..) (request (s.onSpot n (·.startOpening set)) n _)

theorem openValves (s : State) (n : SpotNo) (set : ValveSet) : LinkOf s.link (s.openValves n set).link [n] :=
  driveOpen (s.setSpot n _) n _

theorem closeValves (s : State) (n : SpotNo) : LinkOf s.link (s.closeValves n).link [n] :=
  ite (refl ..) (requestClose (s.setSpot n _) n)

theorem requestClosing (s : State) (n : SpotNo) : LinkOf s.link (s.requestClosing n).link [n] :=
  ite (refl ..) (ite (refl ..) (request (s.onMeter n _) n _))

theorem purgeRest (s : State) (n : SpotNo) : LinkOf s.link (s.purgeRest n).link [n] :=
  (closeValves ..).trans (requestClosing ..)

theorem beginTransfer (s : State) (n : SpotNo) : LinkOf s.link (s.beginTransfer n).link [n] :=
  openValves ((s.onSpot n (·.toTransfer s.siding.config.window)).onMeter n _) n _

theorem enterTransfer (s : State) (n : SpotNo) : LinkOf s.link (s.enterTransfer n).link [n] := by
  unfold State.enterTransfer
  dsimp only
  split
  · have h := purgeRest (((s.beginTransfer n).onSpot n (·.toPurge (some .timeLimit))).setComp
      ((s.beginTransfer n).comp.drop n)) n
    rw [State.link_setComp, State.onSpot_eq, State.link_setSpot] at h
    exact (beginTransfer ..).trans h
  · exact beginTransfer ..

theorem enterStrip (s : State) (n : SpotNo) : LinkOf s.link (s.enterStrip n).link [n] :=
  openValves (s.onSpot n (·.toStrip s.siding.config.window)) n _

theorem grant (s : State) (e : QueueEntry) (rest : List QueueEntry) : LinkOf s.link (s.grant e rest).link [e.spot] := by
  unfold State.grant
  dsimp only
  rw [← State.link_setComp s (s.comp.grant e rest s.siding.config.startSpacing)]
  split
  · exact enterTransfer ..
  · exact enterStrip ..

end LinkOf

/-! ## The release -/

namespace Compressor

variable (c : Compressor)

/-- A spot that gives up leaves the compressor record R99 and R100 give. -/
theorem drop_eq (n : SpotNo) : c.drop n = c.released [n] := by
  have holders : (c.pushHolders.filter fun k => k != n) = c.pushHolders.filter fun k => k ∉ [n] :=
    List.filter_congr fun k _ => by simp [bne, BEq.beq]
  have queue : (c.queue.filter fun e => e.spot != n) = c.queue.filter fun e => e.spot ∉ [n] :=
    List.filter_congr fun e _ => by simp [bne, BEq.beq]
  have holder : (if c.pullHolder == some n then none else c.pullHolder) = c.pullHolder.filter fun k => k ∉ [n] := by
    cases c.pullHolder with
    | none => rfl
    | some k => by_cases hk : k = n <;> simp [Option.filter, hk]
  have last : (c.holds n && (c.pushHolders.filter (· != n)).isEmpty
        && (if c.pullHolder == some n then none else c.pullHolder).isNone) = true
      ↔ (∃ k ∈ [n], k ∈ c.pushHolders ∨ c.pullHolder = some k)
        ∧ (∀ k, k ∈ c.pushHolders ∨ c.pullHolder = some k → k ∈ [n]) := by
    simp only [holds, Bool.and_eq_true, Bool.or_eq_true, List.contains_iff_mem, beq_iff_eq,
      List.isEmpty_iff, List.filter_eq_nil_iff, bne_iff_ne, ne_eq, not_not, List.mem_singleton, exists_eq_left,
      or_imp, forall_and, and_assoc]
    cases c.pullHolder with
    | none => simp
    | some k => by_cases hk : k = n <;> simp [hk]
  unfold drop released
  dsimp only
  rw [apply_ite (fun m => ({ c with mode := m, pushHolders := _, pullHolder := _, queue := _ } : Compressor)),
    ← holders, ← queue, ← holder]
  exact if_congr last rfl rfl

variable (a b : List SpotNo)

/-- The shares that are left. -/
theorem holds_released (n : SpotNo) :
    (n ∈ (c.released a).pushHolders ∨ (c.released a).pullHolder = some n)
      ↔ (n ∈ c.pushHolders ∨ c.pullHolder = some n) ∧ n ∉ a := by
  simp [released, Option.filter_eq_some_iff, or_and_right]

/-- Some spots release, then some more: all of them have released. -/
theorem released_released : (c.released a).released b = c.released (a ++ b) := by
  have mode : ((c.released a).released b).mode = (c.released (a ++ b)).mode := by
    show (if (∃ n ∈ b, n ∈ (c.released a).pushHolders ∨ (c.released a).pullHolder = some n)
      ∧ (∀ n, n ∈ (c.released a).pushHolders ∨ (c.released a).pullHolder = some n → n ∈ b) then _ else
      if _ then _ else _) = if _ then _ else _
    simp only [holds_released, List.mem_append]
    split_ifs <;> first | rfl | (exfalso; grind)
  unfold released at mode ⊢
  simp only [Compressor.mk.injEq, List.filter_filter, Option.filter_filter, true_and]
  refine ⟨mode, ?_, ?_, ?_⟩ <;> clear mode <;> congr 1 <;> funext x <;> simp [Bool.and_comm]

theorem released_nil : c.released [] = c := by
  have : c.pullHolder.filter (fun _ => true) = c.pullHolder := by cases c.pullHolder <;> rfl
  simp [released, this]

/-- Only which spots release matters, not their order. -/
theorem released_congr (h : ∀ n, n ∈ a ↔ n ∈ b) : c.released a = c.released b := by simp only [released, h]

end Compressor

namespace State

variable (s : State) {n k : SpotNo} (r : SpotRecord)

theorem setSpot_comm (h : n ≠ k) (x : SpotRecord) : (s.setSpot n r).setSpot k x = (s.setSpot k x).setSpot n r := by
  simp only [setSpot]
  rw [Vector.set_comm]
  exact fun e => h (Fin.ext e)

theorem onSpot_setSpot (h : n ≠ k) (f : SpotRecord → SpotRecord) :
    (s.setSpot n r).onSpot k f = (s.onSpot k f).setSpot n r := by
  rw [onSpot_eq, onSpot_eq, setSpot_comm _ _ h, spot_setSpot, if_neg h.symm]

theorem request_setSpot (t : Txn) : (s.setSpot n r).request k t = (s.request k t).setSpot n r := by
  unfold request
  rw [apply_ite (setSpot · n r)]
  rfl

theorem requestClose_setSpot : (s.setSpot n r).requestClose k = (s.requestClose k).setSpot n r := by
  unfold requestClose
  rw [apply_ite (setSpot · n r)]
  rfl

theorem driveOpen_setSpot (h : n ≠ k) (set : ValveSet) :
    (s.setSpot n r).driveOpen k set = (s.driveOpen k set).setSpot n r := by
  unfold driveOpen
  rw [apply_ite (setSpot · n r), onSpot_setSpot _ _ h, request_setSpot]

theorem openValves_setSpot (h : n ≠ k) (set : ValveSet) :
    (s.setSpot n r).openValves k set = (s.openValves k set).setSpot n r := by
  unfold openValves
  simp only [spot_setSpot, if_neg h.symm]
  rw [setSpot_comm _ _ h, driveOpen_setSpot _ _ h]

theorem closeValves_setSpot (h : n ≠ k) : (s.setSpot n r).closeValves k = (s.closeValves k).setSpot n r := by
  unfold closeValves
  simp only [spot_setSpot, if_neg h.symm]
  rw [apply_ite (setSpot · n r), setSpot_comm _ _ h, requestClose_setSpot]

theorem requestClosing_setSpot (h : n ≠ k) : (s.setSpot n r).requestClosing k = (s.requestClosing k).setSpot n r := by
  unfold requestClosing
  rw [apply_ite (setSpot · n r), apply_ite (setSpot · n r)]
  rw [← onSpot_setSpot _ _ h, ← request_setSpot]
  rfl

theorem purgeRest_setSpot (h : n ≠ k) : (s.setSpot n r).purgeRest k = (s.purgeRest k).setSpot n r := by
  unfold purgeRest
  rw [closeValves_setSpot _ _ h, requestClosing_setSpot _ _ h]

theorem beginTransfer_setSpot (h : n ≠ k) : (s.setSpot n r).beginTransfer k = (s.beginTransfer k).setSpot n r := by
  unfold beginTransfer
  rw [onSpot_setSpot _ _ h, spot_setSpot, if_neg h.symm, ← openValves_setSpot _ _ h]
  rfl

theorem enterTransfer_setSpot (h : n ≠ k) : (s.setSpot n r).enterTransfer k = (s.enterTransfer k).setSpot n r := by
  unfold enterTransfer
  dsimp only
  rw [apply_ite (setSpot · n r), spot_setSpot, if_neg h.symm, beginTransfer_setSpot _ _ h, onSpot_setSpot _ _ h,
    ← purgeRest_setSpot _ _ h]
  rfl

theorem enterStrip_setSpot (h : n ≠ k) : (s.setSpot n r).enterStrip k = (s.enterStrip k).setSpot n r := by
  unfold enterStrip
  rw [onSpot_setSpot _ _ h, openValves_setSpot _ _ h]
  rfl

theorem grant_setSpot (e : QueueEntry) (rest : List QueueEntry) (h : n ≠ e.spot) :
    (s.setSpot n r).grant e rest = (s.grant e rest).setSpot n r := by
  unfold grant
  dsimp only
  split
  · rw [← enterTransfer_setSpot _ _ h]
    rfl
  · rw [← enterStrip_setSpot _ _ h]
    rfl

/-- An examination does not look at the record of a spot that has no queue entry (R92, R98). -/
theorem examineUpTo_setSpot (bound : Nat) (h : ∀ e ∈ s.comp.queue, e.spot ≠ n) :
    examineUpTo bound (s.setSpot n r) = (examineUpTo bound s).setSpot n r := by
  induction bound generalizing s with
  | zero => rfl
  | succ bound ih =>
    have frozen : (s.setSpot n r).frozen = s.frozen := rfl
    unfold examineUpTo
    rw [frozen]
    split
    · rfl
    · show (match s.comp.queue with | [] => _ | e :: rest => _) = _
      cases hq : s.comp.queue with
      | nil => rfl
      | cons e rest =>
        have hn : n ≠ e.spot := (h e (by rw [hq]; exact List.mem_cons_self)).symm
        have hr : ∀ q ∈ (s.grant e rest).comp.queue, q.spot ≠ n := fun q hm =>
          h q (by rw [hq]; exact List.mem_cons_of_mem _ (s.mem_queue_grant e rest q hm))
        dsimp only
        rw [apply_ite (setSpot · n r), apply_ite (setSpot · n r), ← ih _ hr, grant_setSpot _ _ _ _ hn]
        rfl

theorem examine_setSpot (h : ∀ e ∈ s.comp.queue, e.spot ≠ n) : (s.setSpot n r).examine = s.examine.setSpot n r :=
  examineUpTo_setSpot s r _ h

/-- A spot that changes its record and gives up what it has of the compressor leaves the machine as its release leaves
it, but for the record (R92, R99, R100). -/
theorem giveUp_setSpot : (s.setSpot n r).giveUp n = (s.afterRelease n).setSpot n r := by
  unfold giveUp afterRelease
  have comp : (s.setSpot n r).setComp ((s.setSpot n r).comp.drop n) =
      ({ s with comp := s.comp.released [n] } : State).setSpot n r := by
    show ({ s with comp := s.comp.drop n } : State).setSpot n r = _
    rw [Compressor.drop_eq]
  have owed : (s.setSpot n r).comp.dropExamines n = true ↔
      (n ∈ s.comp.pushHolders ∨ s.comp.pullHolder = some n ∨ s.comp.queue.head?.map QueueEntry.spot = some n) := by
    show s.comp.dropExamines n = true ↔ _
    unfold Compressor.dropExamines Compressor.holds Compressor.headIs
    cases s.comp.queue <;> simp [or_assoc]
  dsimp only
  rw [comp]
  have gone : ∀ e ∈ ({ s with comp := s.comp.released [n] } : State).comp.queue, e.spot ≠ n := by
    intro e he
    have := (List.mem_filter.1 he).2
    simpa using this
  by_cases h : n ∈ s.comp.pushHolders ∨ s.comp.pullHolder = some n ∨ s.comp.queue.head?.map QueueEntry.spot = some n
  · rw [if_pos (owed.2 h), if_pos h, examine_setSpot _ _ gone]
  · rw [if_neg (mt owed.1 h), if_neg h]

end State

end Sys2Proof.Machine
end

