-- ==== Sys2Proof/Laws/Entries.lean ====
section
/-! SUPPORT. What the entries to PURGE, HELD and TRIPPED leave: each shared transition has the property Safety states of
it; and what several spots told to hold while grants are frozen leave together. -/

namespace Sys2Proof.Machine

/-! ## The pending list -/

/-- An entry that joins is pending afterwards (R149). -/
theorem Link.hasPending_join_self (l : Link) (e : LinkEntry) : (l.join e).hasPending e.station e.txn.kind = true := by
  unfold Link.join
  split
  · rename_i h
    simp only [Link.hasPending, List.any_eq_true, List.mem_map] at h ⊢
    obtain ⟨p, hp, hk⟩ := h
    refine ⟨_, ⟨p, hp, rfl⟩, ?_⟩
    rw [if_pos hk]
    simp only [LinkEntry.isPair, LinkEntry.absorb, Bool.and_eq_true, beq_iff_eq] at hk ⊢
    refine ⟨hk.1, ?_⟩
    rw [← hk.2]
    cases p.txn <;> cases e.txn <;> rfl
  · simp [Link.hasPending, LinkEntry.isPair]

/-- An entry that joins leaves the transaction in flight. -/
@[simp] theorem Link.inFlight_join (l : Link) (e : LinkEntry) : (l.join e).inFlight = l.inFlight := by
  unfold Link.join
  split <;> rfl

/-- An entry that joins leaves every other pair as it was. -/
theorem Link.hasPending_join_ne (l : Link) (e : LinkEntry) (station : Option SpotNo) (kind : LinkKind)
    (h : ¬(e.station = station ∧ e.txn.kind = kind)) :
    (l.join e).hasPending station kind = l.hasPending station kind := by
  unfold Link.join
  split
  · simp only [Link.hasPending, List.any_map]
    congr 1
    funext p
    simp only [Function.comp]
    split
    · rename_i hk
      simp only [LinkEntry.isPair, LinkEntry.absorb, Bool.and_eq_true, beq_iff_eq] at hk ⊢
      have : (p.txn.merge e.txn).kind = p.txn.kind := by cases p.txn <;> cases e.txn <;> rfl
      rw [this]
    · rfl
  · simp only [Link.hasPending, List.any_append, List.any_cons, List.any_nil, Bool.or_false]
    have : e.isPair station kind = false := by
      simp only [LinkEntry.isPair, Bool.and_eq_false_iff, beq_eq_false_iff_ne]
      tauto
    rw [this, Bool.or_false]

/-- A withdrawn pair is pending no more. -/
theorem Link.hasPending_withdraw_self (l : Link) (n : SpotNo) (kind : LinkKind) :
    (l.withdraw n kind).hasPending (some n) kind = false := by
  simp [Link.hasPending, Link.withdraw]

/-- Withdrawing a pair leaves every other pair. -/
theorem Link.hasPending_withdraw_ne (l : Link) (n : SpotNo) (kind other : LinkKind) (h : other ≠ kind) :
    (l.withdraw n kind).hasPending (some n) other = l.hasPending (some n) other := by
  simp only [Link.hasPending, Link.withdraw, List.any_filter]
  congr 1
  funext e
  simp only [LinkEntry.isPair]
  by_cases h1 : e.station = some n <;> by_cases h2 : e.txn.kind = other <;> simp_all

@[simp] theorem Link.hasPending_markWithdrawn (l : Link) (n : SpotNo) (kind : LinkKind) (station : Option SpotNo)
    (other : LinkKind) : (l.markWithdrawn n kind).hasPending station other = l.hasPending station other := rfl

namespace State

variable (s : State) (n : SpotNo)

/-- A CLOSE asked of a station that takes requests is pending, and its VALVE_OPEN is not (R149). -/
theorem pending_requestClose (h : (s.station n).status.takesRequests = true) :
    (s.requestClose n).link.hasPending (some n) .close = true
      ∧ (s.requestClose n).link.hasPending (some n) .valveOpen = false := by
  unfold requestClose
  rw [if_pos h]
  simp only [link_setLink, Link.hasPending_markWithdrawn]
  exact ⟨by rw [Link.hasPending_withdraw_ne _ _ _ _ (by decide)]; exact Link.hasPending_join_self s.link (newEntry n .close),
    Link.hasPending_withdraw_self ..⟩

/-- A SAMPLE_READ asked for leaves every pair of another kind. -/
theorem hasPending_request_ne (t : Txn) (station : Option SpotNo) (kind : LinkKind) (h : t.kind ≠ kind) :
    (s.request n t).link.hasPending station kind = s.link.hasPending station kind := by
  unfold request
  split
  · exact Link.hasPending_join_ne _ _ _ _ fun x => h x.2
  · rfl

/-- A read marked CLOSING asked of a station that takes requests is pending with that mark (R149). -/
theorem closing_request (h : (s.station n).status.takesRequests = true) :
    ∃ e ∈ (s.request n (.sampleRead ⟨none, true, false⟩)).link.entries,
      e.station = some n ∧ ∃ m, e.txn = .sampleRead m ∧ m.closing = true := by
  unfold request
  rw [if_pos h]
  have e : (s.join (newEntry n (.sampleRead ⟨none, true, false⟩))).link.entries =
      if s.link.hasPending (some n) .sampleRead then
        s.link.entries.map fun p =>
          if p.isPair (some n) .sampleRead then p.absorb (newEntry n (.sampleRead ⟨none, true, false⟩)) else p
      else s.link.entries ++ [newEntry n (.sampleRead ⟨none, true, false⟩)] := by
    show (Link.join ..).entries = _
    unfold Link.join
    rw [apply_ite Link.entries]
    rfl
  rw [e]
  split
  · rename_i hp
    simp only [Link.hasPending, List.any_eq_true] at hp
    obtain ⟨p, hp, hk⟩ := hp
    refine ⟨_, List.mem_map.2 ⟨p, hp, rfl⟩, ?_⟩
    rw [if_pos hk]
    simp only [LinkEntry.isPair, Bool.and_eq_true, beq_iff_eq] at hk
    cases ht : p.txn <;> simp [ht, Txn.kind] at hk
    refine ⟨hk, _, by simp only [LinkEntry.absorb, ht]; rfl, ?_⟩
    simp [Markings.union]
  · exact ⟨_, List.mem_append_right _ (List.mem_singleton.2 rfl), rfl, _, rfl, rfl⟩

/-! ## A command to close -/

/-- What a command to close leaves (R28). -/
theorem closes_closeValves : ClosesValves s (s.closeValves n) n where
  valveL := by
    rw [spot_closeValves, if_pos rfl]
    cases h : (s.spot n).valveL <;> simp [SpotRecord.startClosing, SpotRecord.openish, SpotRecord.valvesIn, ValveSet.both, h, ValveCommand.commandedClosed]
  valveV := by
    rw [spot_closeValves, if_pos rfl]
    cases h : (s.spot n).valveV <;> simp [SpotRecord.startClosing, SpotRecord.openish, SpotRecord.valvesIn, ValveSet.both, h, ValveCommand.commandedClosed]
  travelL := by
    rw [spot_closeValves, if_pos rfl]
    cases h : (s.spot n).valveL <;> simp [SpotRecord.startClosing, SpotRecord.openish, SpotRecord.valvesIn, ValveSet.both, h, ValveCommand.closeTravel, SpotRecord.travelLoad, Timer.seconds]
  travelV := by
    rw [spot_closeValves, if_pos rfl]
    cases h : (s.spot n).valveV <;> simp [SpotRecord.startClosing, SpotRecord.openish, SpotRecord.valvesIn, ValveSet.both, h, ValveCommand.closeTravel, SpotRecord.travelLoad, Timer.seconds]
  deferred := by rw [spot_closeValves, if_pos rfl]; rfl
  asked := by
    intro hv ht
    have : (s.spot n).openish.isEmpty = false := by
      rcases hv with h | h | h | h <;> simp [SpotRecord.openish, SpotRecord.valvesIn, ValveSet.both, ValveSet.isEmpty, h]
    unfold closeValves
    simp only [this, Bool.false_eq_true, if_false]
    exact pending_requestClose _ n ht

/-! ## What a spot holds after it gives up -/

/-- An examination gives nothing to a spot with no claim (R92, R98). -/
theorem nothing_examineUpTo (bound : Nat) (h : HoldsNothing s.comp n) : HoldsNothing (examineUpTo bound s).comp n := by
  induction bound generalizing s with
  | zero => exact h
  | succ bound ih =>
    unfold examineUpTo
    split
    · exact h
    · split
      · exact h
      · rename_i e rest hq
        have hn : n ≠ e.spot := (h.noEntry e (by rw [hq]; exact List.mem_cons_self)).symm
        have hr : ∀ q ∈ rest, q.spot ≠ n := fun q hm => h.noEntry q (by rw [hq]; exact List.mem_cons_of_mem _ hm)
        split
        · refine ih _ ?_
          have g : HoldsNothing (s.comp.grant e rest s.siding.config.startSpacing) n := by
            unfold Compressor.grant
            split
            · exact ⟨by simpa [hn] using fun _ => h.noPush, h.noPull, hr⟩
            · exact ⟨h.noPush, by simpa using hn.symm, hr⟩
          unfold State.grant
          dsimp only
          split
          · unfold enterTransfer
            dsimp only
            split
            · refine ⟨?_, ?_, ?_⟩
              · simp only [comp_purgeRest, comp_setComp, Compressor.pushHolders_drop, comp_beginTransfer, List.mem_filter]
                exact fun x => g.noPush x.1
              · simp only [comp_purgeRest, comp_setComp, Compressor.pullHolder_drop, comp_beginTransfer]
                split
                · simp
                · exact g.noPull
              · simp only [comp_purgeRest, comp_setComp, Compressor.queue_drop, comp_beginTransfer, List.mem_filter]
                exact fun q hm => g.noEntry q hm.1
            · simpa using g
          · simpa using g
        · split
          · exact ⟨h.noPush, h.noPull, h.noEntry⟩
          · exact h

/-- A spot that gives up holds nothing (R99, R100). -/
theorem nothing_giveUp : HoldsNothing (s.giveUp n).comp n := by
  have g : HoldsNothing (s.comp.drop n) n := by
    refine ⟨by simp, ?_, fun e => noEntry_drop n s.comp e⟩
    rw [Compressor.pullHolder_drop]
    split
    · simp
    · simp_all
  unfold giveUp
  dsimp only
  split
  · exact nothing_examineUpTo _ n _ g
  · exact g

/-- Giving up leaves every other spot that has no queue entry (R92). -/
theorem others_giveUp (k : SpotNo) (h : ∀ e ∈ s.comp.queue, e.spot ≠ k) :
    (s.giveUp n).spot k = s.spot k ∧ (s.giveUp n).meter k = s.meter k := by
  have hq : ∀ e ∈ (s.setComp (s.comp.drop n)).comp.queue, e.spot ≠ k := by
    intro e he
    rw [comp_setComp, Compressor.queue_drop] at he
    exact h e (List.mem_filter.1 he).1
  unfold giveUp
  dsimp only
  split
  · exact ⟨by rw [spot_examine _ _ hq, spot_setComp], by rw [meter_examine _ _ hq, meter_setComp]⟩
  · exact ⟨rfl, rfl⟩

/-- A spot that changes its record, gives up, and goes on with its own valves, meter and transactions alone has taken its
own course (R92, R99, R100). -/
theorem courseOf_giveUp (r : SpotRecord) {u : State} (course : Course ((s.setSpot n r).giveUp n) u)
    (comp : u.comp = ((s.setSpot n r).giveUp n).comp)
    (others : ∀ k, k ≠ n → u.spot k = ((s.setSpot n r).giveUp n).spot k ∧ u.meter k = ((s.setSpot n r).giveUp n).meter k)
    (link : LinkOf ((s.setSpot n r).giveUp n).link u.link [n]) : CourseOf s u n := by
  refine ⟨((Course.setSpot s n r).trans (.giveUp _ n)).trans course, ?_, fun k hk => ?_, ?_, fun k hk hq => ?_⟩
  · rw [comp, giveUp_setSpot, comp_setSpot]
  · rw [(others k hk).1, (others k hk).2, giveUp_setSpot, spot_setSpot, if_neg hk, meter_setSpot]
    exact ⟨rfl, rfl⟩
  · rwa [giveUp_setSpot, link_setSpot] at link
  · have := others_giveUp (s.setSpot n r) n k hq
    rw [(others k hk).1, (others k hk).2, this.1, this.2, spot_setSpot, if_neg hk, meter_setSpot]
    exact ⟨rfl, rfl⟩

/-- A command to close changes the spot's own record and transactions alone. -/
theorem courseOf_closeValves (r : SpotRecord) : CourseOf s (((s.setSpot n r).giveUp n).closeValves n) n :=
  courseOf_giveUp s n r (.closeValves ..) (comp_closeValves ..)
    (fun k hk => by rw [spot_closeValves, if_neg hk, meter_closeValves]; exact ⟨rfl, rfl⟩) (.closeValves ..)

/-- The last steps of an entry to PURGE change the spot's own record, meter and transactions alone. -/
theorem courseOf_purgeRest (r : SpotRecord) : CourseOf s (((s.setSpot n r).giveUp n).purgeRest n) n :=
  courseOf_giveUp s n r (.purgeRest ..) (comp_purgeRest ..)
    (fun k hk => by rw [spot_purgeRest, if_neg hk, meter_purgeRest_ne _ _ _ hk]; exact ⟨rfl, rfl⟩) (.purgeRest ..)

/-- A course that starts from a new record of the spot is one of the spot (R19, R116). -/
theorem courseOf_of_setSpot (r : SpotRecord) {u : State} (h : CourseOf (s.setSpot n r) u n) : CourseOf s u n := by
  have same : ((s.setSpot n r).afterRelease n).setSpot n r = (s.afterRelease n).setSpot n r := by
    rw [← giveUp_setSpot, ← giveUp_setSpot, setSpot_setSpot]
  have others (k : SpotNo) (hk : k ≠ n) : ((s.setSpot n r).afterRelease n).spot k = (s.afterRelease n).spot k := by
    have := congrArg (spot · k) same
    simpa only [spot_setSpot, if_neg hk] using this
  refine ⟨(Course.setSpot s n r).trans h.course, ?_, fun k hk => ?_, ?_, fun k hk hq => ?_⟩
  · rw [h.comp]
    have := congrArg State.comp same
    rwa [comp_setSpot, comp_setSpot] at this
  · rw [(h.release k hk).1, (h.release k hk).2, others k hk]
    have := congrArg (meter · k) same
    simp only [meter_setSpot] at this
    exact ⟨rfl, by rw [this]⟩
  · have := congrArg State.link same
    rw [link_setSpot, link_setSpot] at this
    rw [← this]
    exact h.link
  · have := h.others k hk hq
    rwa [spot_setSpot, if_neg hk] at this

/-- The CLOSE and the commands of a later operation read the record that giving up kept. -/
theorem ClosesValves.of_record {t u : State} (h : ClosesValves t u n)
    (valveL : (t.spot n).valveL = (s.spot n).valveL) (valveV : (t.spot n).valveV = (s.spot n).valveV)
    (travelL : (t.spot n).travelL = (s.spot n).travelL) (travelV : (t.spot n).travelV = (s.spot n).travelV)
    (config : (t.spot n).config = (s.spot n).config) (status : (t.station n).status = (s.station n).status) :
    ClosesValves s u n where
  valveL := by rw [h.valveL, valveL]
  valveV := by rw [h.valveV, valveV]
  travelL := by rw [h.travelL, valveL, travelL, config]
  travelV := by rw [h.travelV, valveV, travelV, config]
  deferred := h.deferred
  asked := by rw [← valveL, ← valveV, ← status]; exact h.asked

/-! ## The entries -/

/-- Entry to HELD (R20). -/
theorem enters_enterHeld (reason : HoldReason) : EntersHeld s (s.enterHeld n reason) n reason := by
  have r := spot_enterHeld s n reason
  refine ⟨⟨?_, ?_, ?_, ?_, ?_, ⟨?_, ?_, ?_⟩, ?_, ?_, ⟨?_, ?_, ?_, ?_, ?_⟩, meter_enterHeld s n reason⟩,
    courseOf_closeValves s n _⟩
  all_goals first | (rw [r]; rfl) | skip
  · rw [r]
    cases h : (s.spot n).state <;> simp [SpotRecord.startClosing, SpotRecord.toHeld, SpotRecord.stopMoving, h]
  · have c := closes_closeValves ((s.onSpot n (·.toHeld reason)).giveUp n) n
    refine ClosesValves.of_record s n c ?_ ?_ ?_ ?_ ?_ ?_
    all_goals first
      | (rw [spot_giveUp, onSpot_eq, spot_setSpot_self]; rfl)
      | (rw [(Course.giveUp _ n).station]; rfl)
  · unfold enterHeld
    rw [comp_closeValves]
    exact nothing_giveUp _ n

/-- Entry to TRIPPED on causes in number order (R26, R113). -/
theorem enters_trip (first : TripCause) (rest : List TripCause) :
    EntersTripped s (s.trip n (first :: rest)) n ⟨first, causeUnion (first :: rest) (s.levelsPresent n)⟩ := by
  have r := spot_trip s n first rest
  refine ⟨?_, ?_, ?_, ?_, ?_, ?_, ?_, ?_, ⟨?_, ?_, ?_⟩, ?_, ?_, ⟨?_, ?_, ?_, ?_, ?_⟩, meter_trip s n _,
    courseOf_closeValves s n _⟩
  all_goals first | (rw [r]; rfl) | skip
  · have c := closes_closeValves ((s.onSpot n
      (·.toTripped ⟨first, causeUnion (first :: rest) (s.levelsPresent n)⟩)).giveUp n) n
    refine ClosesValves.of_record s n c ?_ ?_ ?_ ?_ ?_ ?_
    all_goals first
      | (rw [spot_giveUp, onSpot_eq, spot_setSpot_self]; rfl)
      | (rw [(Course.giveUp _ n).station]; rfl)
  · unfold trip
    rw [comp_closeValves]
    exact nothing_giveUp _ n

/-- The steps of an entry to PURGE after the compressor: the record, the closing read, the meter (R22, R70, R154). -/
theorem meter_requestClosing_self :
    (s.requestClosing n).meter n =
      if (s.meter n).closingRequest then s.meter n
      else if (s.station n).status == .lost then (s.meter n).abandonClosing
      else { s.meter n with closingRequest := true } := by
  unfold requestClosing
  split
  · rfl
  · split <;> simp

/-- Entry to PURGE (R22). -/
theorem enters_enterPurge (reason : Option EndReason) : EntersPurge s (s.enterPurge n reason) n reason := by
  have r := spot_enterPurge s n reason
  have fields : ∀ {α : Type} (f : SpotRecord → α),
      (∀ x : SpotRecord, f { x with closingRead := .settled } = f x) →
      f ((s.enterPurge n reason).spot n) = f ((s.spot n).toPurge reason).startClosing := by
    intro α f hf
    rw [r, purgedRecord]
    split
    · exact hf _
    · rfl
  have m : (s.enterPurge n reason).meter n =
      if (s.meter n).closingRequest then s.meter n
      else if (s.station n).status == .lost then (s.meter n).abandonClosing
      else { s.meter n with closingRequest := true } := by
    unfold enterPurge purgeRest
    rw [meter_requestClosing_self, meter_closeValves, meter_giveUp, onSpot_eq, meter_setSpot,
      (Course.closeValves _ n).station, (Course.giveUp _ n).station]
    rfl
  have t : (s.enterPurge n reason) = (((s.onSpot n (·.toPurge reason)).giveUp n).closeValves n).requestClosing n := rfl
  refine ⟨?_, ?_, ?_, ?_, ⟨?_, ?_, ?_⟩, ?_, ?_, ?_, ?_, ?_, ?_, ?_, ?_, ?_, ?_, ?_,
    courseOf_purgeRest s n _⟩
  · exact fields (·.state) fun _ => rfl
  · exact fields (·.endReason) fun _ => rfl
  · exact fields (·.purge) fun _ => rfl
  · exact fields (·.purgeExpired) fun _ => rfl
  · exact fields (·.window) fun _ => rfl
  · exact fields (·.strip) fun _ => rfl
  · exact fields (·.limitRunning) fun _ => rfl
  · have c := closes_closeValves ((s.onSpot n (·.toPurge reason)).giveUp n) n
    have c' := ClosesValves.of_record s n c
      (by rw [spot_giveUp, onSpot_eq, spot_setSpot_self]; rfl) (by rw [spot_giveUp, onSpot_eq, spot_setSpot_self]; rfl)
      (by rw [spot_giveUp, onSpot_eq, spot_setSpot_self]; rfl) (by rw [spot_giveUp, onSpot_eq, spot_setSpot_self]; rfl)
      (by rw [spot_giveUp, onSpot_eq, spot_setSpot_self]; rfl) (by rw [(Course.giveUp _ n).station]; rfl)
    have e := spot_closeValves ((s.onSpot n (·.toPurge reason)).giveUp n) n n
    rw [if_pos rfl, spot_giveUp, onSpot_eq, spot_setSpot_self] at e
    refine ⟨?_, ?_, ?_, ?_, ?_, fun hv ht => ?_⟩
    · rw [fields (·.valveL) fun _ => rfl, ← e]; exact c'.valveL
    · rw [fields (·.valveV) fun _ => rfl, ← e]; exact c'.valveV
    · rw [fields (·.travelL) fun _ => rfl, ← e]; exact c'.travelL
    · rw [fields (·.travelV) fun _ => rfl, ← e]; exact c'.travelV
    · exact fields (·.openDeferred) fun _ => rfl
    · have a := c'.asked hv ht
      rw [t]
      unfold requestClosing
      split
      · exact a
      · split
        · exact a
        · rw [hasPending_request_ne _ _ _ _ _ (by decide), hasPending_request_ne _ _ _ _ _ (by decide)]
          exact a
  · rw [t, comp_requestClosing, comp_closeValves]
    exact nothing_giveUp _ n
  · exact fields (·.car) fun _ => rfl
  · exact fields (·.bypass) fun _ => rfl
  · exact fields (·.config) fun _ => rfl
  · exact fields (·.stripRequested) fun _ => rfl
  · exact fields (·.seqFlags) fun _ => rfl
  · exact fields (·.limitMs) fun _ => rfl
  · intro h
    constructor
    · rw [r, purgedRecord]
      have : s.abandonsAtOnce n = false := by
        unfold abandonsAtOnce
        rcases h with h | h <;> simp [h]
      rw [this]
      rfl
    · rw [m]
      split
      · rename_i hc
        cases hm : s.meter n
        rw [hm] at hc
        simp only at hc
        simp [hc]
      · rename_i hc
        have : ((s.station n).status == .lost) = false := by
          rcases h with h | h
          · exact absurd h hc
          · simp [h]
        simp [this]
  · intro hc ht
    rw [t]
    have hm : ((((s.onSpot n (·.toPurge reason)).giveUp n).closeValves n).meter n).closingRequest = false := by
      rw [meter_closeValves, meter_giveUp, onSpot_eq, meter_setSpot]; exact hc
    have hs : (((s.onSpot n (·.toPurge reason)).giveUp n).closeValves n).station n = s.station n := by
      rw [(Course.closeValves _ n).station, (Course.giveUp _ n).station]; rfl
    unfold requestClosing
    rw [if_neg (by rw [hm]; decide), hs, if_neg (by cases h : (s.station n).status <;> simp_all [StationStatus.takesRequests])]
    refine closing_request _ n ?_
    show (State.station _ n).status.takesRequests = true
    rw [onMeter_eq]
    exact hs ▸ ht
  · intro hc hl
    constructor
    · rw [r, purgedRecord]
      have : s.abandonsAtOnce n = true := by simp [abandonsAtOnce, hc, hl]
      rw [this]
      rfl
    · rw [m, if_neg (by simp [hc]), if_pos (by simp [hl])]
      cases hm : s.meter n
      rw [hm] at hc
      simp only at hc
      simp [Meter.abandonClosing, hc]

/-! ## Several spots told to hold while grants are frozen (R101, R103) -/

theorem mem_insertAt {α : Type} (l : List α) (i : Nat) (a x : α) : x ∈ insertAt l i a ↔ x = a ∨ x ∈ l := by
  induction l generalizing i with
  | nil => simp [insertAt]
  | cons b l ih => cases i <;> simp [insertAt, ih, or_left_comm]

/-- An arrangement has the members of the list (log 6). -/
theorem mem_arrange {α : Type} (k : Nat) (l : List α) (x : α) : x ∈ arrange k l ↔ x ∈ l := by
  induction l generalizing k with
  | nil => simp [arrange]
  | cons b l ih => simp [arrange, mem_insertAt, ih]

/-- While grants are frozen a release starts nothing (R93). -/
theorem afterRelease_of_frozen (h : s.frozen = true) : s.afterRelease n = { s with comp := s.comp.released [n] } := by
  unfold afterRelease
  dsimp only
  split
  · exact examine_of_frozen (_ : State) h
  · rfl

/-- Entry to HELD while grants are frozen touches its own spot, its share and its transactions alone. -/
theorem enterHeld_of_frozen (reason : HoldReason) (h : s.frozen = true) :
    (s.enterHeld n reason).comp = s.comp.released [n] ∧ LinkOf s.link (s.enterHeld n reason).link [n]
      ∧ (s.enterHeld n reason).frozen = true
      ∧ ∀ k, k ≠ n → (s.enterHeld n reason).spot k = s.spot k ∧ (s.enterHeld n reason).meter k = s.meter k := by
  have f := (enters_enterHeld s n reason).frame
  have released := afterRelease_of_frozen s n h
  refine ⟨?_, ?_, ?_, fun k hk => ?_⟩
  · rw [f.comp, released]
  · have := f.link
    rwa [released] at this
  · unfold frozen at h ⊢
    rw [f.course.siding, h]
  · rw [(f.release k hk).1, (f.release k hk).2, released]
    exact ⟨rfl, rfl⟩

/-- Several spots entering HELD, one after the other, while grants are frozen: their shares and queue entries are released
together, and every other spot is as it was (R20, R99, R100). -/
theorem foldl_enterHeld (reason : HoldReason) (told : List SpotNo) (h : s.frozen = true) :
    let u := told.foldl (fun t n => t.enterHeld n reason) s
    u.comp = s.comp.released told ∧ LinkOf s.link u.link told
      ∧ ∀ k, k ∉ told → u.spot k = s.spot k ∧ u.meter k = s.meter k := by
  induction told generalizing s with
  | nil => exact ⟨(Compressor.released_nil _).symm, .refl .., fun _ _ => ⟨rfl, rfl⟩⟩
  | cons n told ih =>
    obtain ⟨comp, link, f, others⟩ := enterHeld_of_frozen s n reason h
    obtain ⟨comp', link', others'⟩ := ih (s.enterHeld n reason) f
    refine ⟨?_, (link.mono (by simp)).trans (link'.mono (by simp)), fun k hk => ?_⟩
    · rw [List.foldl_cons, comp', comp, Compressor.released_released]
      rfl
    · rw [List.mem_cons, not_or] at hk
      rw [List.foldl_cons, (others' k hk.2).1, (others' k hk.2).2]
      exact others k hk.1

/-- The same in whatever order they are told (log 6). -/
theorem tellAll_enterHeld (reason : HoldReason) (told : List SpotNo) (h : s.frozen = true) :
    let u := s.tellAll told fun t n => t.enterHeld n reason
    u.comp = s.comp.released told ∧ LinkOf s.link u.link told
      ∧ ∀ k, k ∉ told → u.spot k = s.spot k ∧ u.meter k = s.meter k := by
  obtain ⟨comp, link, others⟩ := foldl_enterHeld { s with choices := s.choices + told.length } reason
    (arrange s.choices told) h
  have members := fun n => mem_arrange s.choices told n
  exact ⟨comp.trans (Compressor.released_congr _ _ _ members), link.mono fun n hn => (members n).1 hn,
    fun k hk => others k (mt (members k).1 hk)⟩

end State

end Sys2Proof.Machine
end

