-- ==== Sys2Proof/Laws/Events.lean ====
section
/-! SUPPORT. What the shared steps of the link's completions leave: the sequencer's part of an event, a window's outcome,
the end of a close, the start and the end of a stroke, the selection on a free link, the frames that are taken, and a
changeover's expiry beside a fault. -/

namespace Sys2Proof.Machine

namespace State

variable (s : State) (n : SpotNo)

/-! ## The sequencer takes an event -/

theorem causeUnion_eq (a b : List TripCause) :
    causeUnion a b = TripCause.all.filter fun c => c ∈ a ∨ c ∈ b := by
  unfold causeUnion
  congr 1
  funext c
  simp

theorem levelsPresent_eq :
    s.levelsPresent n = TripCause.all.filter fun c => c.isLevel = true ∧ s.causePresent n c = true := by
  unfold levelsPresent
  congr 1
  funext c
  simp

theorem trip_causes (brought : List TripCause) :
    causeUnion brought (s.levelsPresent n) =
      TripCause.all.filter fun c => c ∈ brought ∨ (c.isLevel = true ∧ s.causePresent n c = true) := by
  rw [causeUnion_eq]
  congr 1
  funext c
  have : c ∈ TripCause.all := by cases c <;> decide
  simp [levelsPresent, this]

/-- The level causes judged do not depend on the record fields that entering CONNECTED changes (R107, R109). -/
theorem levelsPresent_toConnected :
    (s.setSpot n (s.spot n).toConnected).levelsPresent n = s.levelsPresent n := by
  unfold levelsPresent
  congr 1
  funext c
  cases c <;> simp [TripCause.isLevel, causePresent, levelCondition, metered, SpotRecord.toConnected] <;> rfl

/-- A trip on causes in number order that hold every level cause present is a trip on those (R113). -/
theorem enters_connected (first : TripCause) (rest : List TripCause) (h : s.levelsPresent n = first :: rest) :
    EntersTripped s (s.trip n (first :: rest)) n ⟨first, first :: rest⟩ := by
  have e := enters_trip s n first rest
  have : causeUnion (first :: rest) (s.levelsPresent n) = first :: rest := by
    rw [← h]
    unfold causeUnion levelsPresent
    refine List.filter_congr fun c hc => ?_
    simp [hc]
  rwa [this] at e

/-- The sequencer's part of a station event with no window report (R6, R25, R108, R109, R113 to R115). -/
theorem takes_takeStationEvent (old : State) (extra : List TripCause) :
    SequencerTakes s (s.takeStationEvent old n extra none) n (causeUnion (s.risen old n) extra) := by
  unfold takeStationEvent
  generalize causeUnion (s.risen old n) extra = brought
  dsimp only
  refine ⟨?_, ?_, ?_, ?_, ?_⟩
  · intro ha first rest hb
    subst hb
    have e := enters_trip s n first rest
    rw [← trip_causes]
    unfold takeCauses
    rw [if_pos ha]
    have st := e.state
    unfold moveOnInputs
    simpa [st] using e
  · intro ht
    unfold takeCauses
    rw [if_neg (by rw [ht]; decide), if_pos (by rw [ht]; rfl)]
    unfold moveOnInputs
    simp only [onSpot_eq, spot_setSpot_self]
    have : ((s.spot n).addCauses brought).state = .tripped := ht
    simp only [this]
    congr 1
    simp only [SpotRecord.addCauses]
    congr 1
    congr 1
    funext t
    rw [causeUnion_eq]
  · intro ha hi
    have : s.takeCauses n brought = s := by
      unfold takeCauses
      rw [if_neg (by rw [ha]; decide), if_neg (by rw [ha]; decide)]
    rw [this]
    unfold moveOnInputs
    simp only [ha, hi, if_true]
    unfold connect
    have hl := levelsPresent_toConnected s n
    simp only [onSpot_eq]
    rw [hl]
    rw [← levelsPresent_eq]
    have hc : (s.setSpot n (s.spot n).toConnected).takeCauses n (s.levelsPresent n) =
        (s.setSpot n (s.spot n).toConnected).trip n (s.levelsPresent n) := by
      unfold takeCauses
      rw [if_pos (by simp [SpotRecord.toConnected, SpotState.armed])]
    rw [hc]
    constructor
    · intro h0
      rw [h0]
      rfl
    · intro first rest h1
      rw [h1]
      exact enters_connected _ n first rest (hl.trans h1)
  · intro hc hi
    have : s.takeCauses n brought = s := by
      unfold takeCauses
      rw [if_neg (by rw [hc]; decide), if_neg (by rw [hc]; decide)]
    rw [this]
    unfold moveOnInputs
    simp [hc, hi]
  · intro ht hb ha hc
    have : s.takeCauses n brought = s := by
      unfold takeCauses
      split
      · rename_i h
        rw [hb h]
        rfl
      · rw [if_neg (by simpa using ht)]
    rw [this]
    unfold moveOnInputs
    split
    · rename_i h
      rw [if_neg (by rw [ha h]; decide)]
    · rename_i h
      rw [if_pos (hc h)]
    · rfl

/-- An event with a window report: the outcome is acted on after the sequencer's part (R14). -/
theorem takeStationEvent_report (old : State) (extra : List TripCause) (r : WindowReport) :
    s.takeStationEvent old n extra (some r) = (s.takeStationEvent old n extra none).takeOutcome n r := rfl

/-- With no level cause risen the causes brought are the event's own, in number order. -/
theorem risen_none (old : State) (h : ∀ c, s.levelCondition n c = true → old.levelCondition n c = true) :
    s.risen old n = [] := by
  simp only [risen, List.filter_eq_nil_iff, Bool.and_eq_true, Bool.not_eq_true', not_and, Bool.not_eq_false]
  exact fun c _ => h c

/-! ## A window's outcome -/

/-- What a window's outcome does to its spot (R14, R15, R18). -/
theorem outcome_takeOutcome (r : WindowReport) : OutcomeTaken s (s.takeOutcome n r) n r := by
  refine ⟨?_, ?_, ?_, ?_, ?_⟩
  · intro h1 h2 h3
    simpa [takeOutcome, h1, h2, h3] using enters_enterPurge s n _
  · intro h1 h2 h3 h4
    simpa [takeOutcome, h1, h2, h3, h4] using enters_enterPurge s n _
  · intro h1 h2 h3 h4
    have e : s.takeOutcome n r = s.emptyToStripWait n := by simp [takeOutcome, h1, h2, h3, h4]
    rw [e]
    let f : SpotRecord → SpotRecord := fun r => { r.stopMoving with state := .stripWait, endReason := some .empty }
    have rec' : (((s.onSpot n f).giveUp n).closeValves n).spot n = (f (s.spot n)).startClosing := by
      rw [spot_closeValves, if_pos rfl, spot_giveUp, onSpot_eq, spot_setSpot_self]
    refine ⟨((s.onSpot n f).giveUp n).closeValves n, by rw [rec']; rfl, by rw [rec']; rfl, ?_, ?_, ?_, ?_,
      courseOf_closeValves s n _, ?_, rfl⟩
    · rw [rec']
      exact ⟨rfl, rfl, rfl⟩
    · rw [rec']
      exact ⟨rfl, rfl, rfl, rfl, rfl⟩
    · refine ClosesValves.of_record s n (closes_closeValves _ n) ?_ ?_ ?_ ?_ ?_ ?_
      all_goals first
        | (rw [spot_giveUp, onSpot_eq, spot_setSpot_self]; rfl)
        | (rw [(Course.giveUp _ n).station]; rfl)
    · rw [comp_closeValves]
      exact nothing_giveUp _ n
    · rw [meter_closeValves, meter_giveUp]
      rfl
  · intro h1 h2 h3
    simpa [takeOutcome, h1, h2, h3] using enters_enterPurge (s.setSpot n _) n none
  · intro h1 h2
    unfold takeOutcome
    split <;> simp_all

/-! ## The end of a close -/

/-- A valve set driven open is pending where the station takes requests (R27). -/
theorem pending_request (t : Txn) (h : (s.station n).status.takesRequests = true) :
    (s.request n t).link.hasPending (some n) t.kind = true := by
  unfold request
  rw [if_pos h]
  exact Link.hasPending_join_self s.link (newEntry n t)

theorem finishes (drive : ValveSet) :
    FinishesCloses s ((s.onSpot n fun r => { r.finishClosing with openDeferred := .none }).driveOpen n drive) n drive := by
  set b := s.onSpot n fun r => { r.finishClosing with openDeferred := .none } with hb
  have hs : b.spot n = { (s.spot n).finishClosing with openDeferred := .none } := by simp [hb]
  have hc : Course s b := Course.onSpot ..
  refine ⟨?_, ?_, ?_, LinkOf.driveOpen b n drive, hc.trans (Course.driveOpen ..), ?_, ?_, ?_⟩
  · rw [spot_driveOpen, if_pos rfl, hs]
    obtain ⟨l, v⟩ := drive
    cases l <;> cases v <;>
      simp [ValveSet.isEmpty, SpotRecord.startOpening, SpotRecord.finishClosing, ValveCommand.afterCloses,
        ValveCommand.travelAfterCloses, SpotRecord.travelLoad, Timer.seconds, ValveSet.none]
  · intro hd ht
    unfold driveOpen
    have : drive.isEmpty = false := by
      revert hd
      cases hl : drive.l <;> cases hv : drive.v <;> simp [ValveSet.isEmpty, hl, hv]
    simp only [this, Bool.false_eq_true, if_false]
    exact pending_request _ n (.valveOpen drive) ht
  · intro hd
    unfold driveOpen
    have : drive.isEmpty = true := by
      revert hd
      cases hl : drive.l <;> cases hv : drive.v <;> simp [ValveSet.isEmpty, hl, hv]
    rw [if_pos this]
    rfl
  · rw [comp_driveOpen]
    rfl
  · unfold driveOpen request
    split
    · rfl
    · split <;> rfl
  · intro k hk
    rw [spot_driveOpen, if_neg hk]
    simp [hb, spot_setSpot, hk]

/-- CLOSE answered DONE (R29). -/
theorem finishes_closeDone : FinishesCloses s (s.closeDone n) n (s.spot n).openDeferred := finishes s n _

/-- INITIALIZE answered DONE (R29). -/
theorem finishes_initDone :
    FinishesCloses s (s.initDone n) n
      ((s.spot n).openDeferred.union (if (s.spot n).state.moving then (s.spot n).openish else .none)) :=
  finishes s n _

/-! ## Strokes -/

theorem StrokeFrame.of_setSpot (t : State) (k : Option Stroke) (r : SpotRecord) (hs : t = (s.setStroke k).setSpot n r) :
    StrokeFrame s t n := by
  subst hs
  exact ⟨⟨rfl, rfl, rfl, rfl, rfl⟩, rfl, rfl, rfl, rfl, .refl .., fun j hj => by simp [spot_setSpot, hj]⟩

/-- A stroke starts (R31, R133). -/
theorem starts_startStroke (v : ValveIndex) (origin : StrokeOrigin) :
    StartsStroke s (s.startStroke v origin) v origin := by
  have hl : (match valveSideOf v with
      | .liquid => (s.spot (valveSpot v)).config.strokeLimitL
      | .vapour => (s.spot (valveSpot v)).config.strokeLimitV) = strokeLimitOf s v := by
    unfold valveSideOf strokeLimitOf
    split <;> rename_i h <;> split at h <;> simp_all
  set b := (s.setStroke (some ⟨v, origin, strokeLimitOf s v, .running (2 * strokeLimitOf s v)⟩)).onSpot (valveSpot v)
    (·.setValve (valveSideOf v) .opening) with hb
  have e : s.startStroke v origin = b.request (valveSpot v) (.stroke (valveSideOf v)) := by
    rw [hb, ← hl]
    rfl
  have c := Course.request b (valveSpot v) (.stroke (valveSideOf v))
  have hsp : ∀ j, (b.request (valveSpot v) (.stroke (valveSideOf v))).spot j = b.spot j := by
    intro j
    unfold request
    split <;> rfl
  have hrest : (b.request (valveSpot v) (.stroke (valveSideOf v))).comp = b.comp
      ∧ (b.request (valveSpot v) (.stroke (valveSideOf v))).meters = b.meters := by
    unfold request
    split <;> exact ⟨rfl, rfl⟩
  rw [e]
  refine ⟨?_, ?_, ?_, ⟨?_, ?_, ?_, ?_, ?_, ?_, ?_⟩⟩
  · rw [c.proof]
    rfl
  · rw [hsp, hb]
    simp
  · exact pending_request b (valveSpot v) (.stroke (valveSideOf v))
  · exact ⟨c.pending, c.line, c.manifest, c.grades, c.siding⟩
  · rw [hrest.1]
    rfl
  · rw [c.tickets]
    rfl
  · rw [hrest.2]
    rfl
  · rw [c.choices]
    rfl
  · exact LinkOf.request b (valveSpot v) (.stroke (valveSideOf v))
  · intro j hj
    rw [hsp, hb]
    simp [spot_setSpot, hj]

/-- A stroke ends with a record (R137). -/
theorem ends_endStroke (k : Stroke) (result : ProofRecord) (drive : Bool) :
    EndsStroke s ((s.setProofRecord k.valve result).endStroke k drive) k result (drive = true) := by
  set n := valveSpot k.valve
  set b := (((s.setProofRecord k.valve result).setStroke none).setLink
    ((s.link.withdraw n .stroke).markWithdrawn n .stroke)).onSpot n (·.setValve (valveSideOf k.valve) .closed) with hb
  have e : (s.setProofRecord k.valve result).endStroke k drive = if drive then b.requestClose n else b := rfl
  have c : Course b (if drive then b.requestClose n else b) := Course.ite (Course.requestClose ..) (Course.refl _)
  have hsp : ∀ j, (if drive then b.requestClose n else b).spot j = b.spot j := by
    intro j
    unfold requestClose
    split
    · split <;> rfl
    · rfl
  have hrest : (if drive then b.requestClose n else b).comp = b.comp
      ∧ (if drive then b.requestClose n else b).meters = b.meters := by
    unfold requestClose
    split
    · split <;> exact ⟨rfl, rfl⟩
    · exact ⟨rfl, rfl⟩
  rw [e]
  refine ⟨?_, ?_, ?_, ?_, ?_, ?_, ?_, ?_, ⟨?_, ?_, ?_, ?_, ?_, ?_, ?_⟩⟩
  · rw [c.proofRecord]
    show (s.setProofRecord k.valve result).proofRecord k.valve = _
    simp
  · intro v hv
    rw [c.proofRecord]
    show (s.setProofRecord k.valve result).proofRecord v = _
    simp [proofRecord_setProofRecord, hv]
  · rw [c.proof]
    rfl
  · rw [hsp, hb]
    exact spot_setSpot_self ..
  · split
    · unfold requestClose
      split
      · show ((Link.withdraw _ _ _).markWithdrawn _ _).hasPending _ _ = _
        rw [Link.hasPending_markWithdrawn, Link.hasPending_withdraw_ne _ _ _ _ (by decide),
          Link.hasPending_join_ne _ _ _ _ (by simp [newEntry, Txn.kind])]
        exact Link.hasPending_withdraw_self ..
      · exact Link.hasPending_withdraw_self ..
    · exact Link.hasPending_withdraw_self ..
  · intro f hf hn hk hm
    have marked : b.link.inFlight = some ⟨f.entry, .withdrawn⟩ := by
      show (s.link.withdraw n .stroke).inFlight.map _ = _
      have : (s.link.withdraw n .stroke).inFlight = some f := hf
      rw [this, Option.map_some, if_pos (by simp [LinkEntry.isPair, hn, hk, hm, n])]
    split
    · unfold requestClose
      split
      · simp [Link.markWithdrawn, Link.withdraw, marked]
      · exact marked
    · exact marked
  · intro hd
    rw [if_neg hd]
    rfl
  · intro hd ht
    rw [if_pos hd]
    exact (pending_requestClose b n ht).1
  · exact ⟨c.pending, c.line, c.manifest, c.grades, c.siding⟩
  · rw [hrest.1]
    rfl
  · rw [c.tickets]
    rfl
  · rw [hrest.2]
    rfl
  · rw [c.choices]
    rfl
  · have closed : LinkOf b.link (if drive then b.requestClose n else b).link [n] := .ite (.requestClose ..) (.refl ..)
    exact LinkOf.trans ((LinkOf.withdraw ..).trans (LinkOf.markWithdrawn ..)) closed
  · intro j hj
    rw [hsp, hb]
    exact (spot_setSpot _ n j _).trans (if_neg hj)

end State

/-! ## The selection on a free link (R150) -/

namespace Link

variable {l : Link}

theorem passedOver_iff (free : l.inFlight = none) (e : LinkEntry) : l.passedOver e = true ↔ l.passes e := by
  have running (t : Timer) : t.isRunning = true ↔ t ≠ .stopped := by cases t <;> simp [Timer.isRunning]
  unfold passedOver passes inFlightIs
  rw [free, Bool.or_eq_true, running]
  cases e.station <;>
    simp [Option.isSome_iff_ne_none, or_assoc]

/-- The classes in the order R150 goes through them, and the ranks. -/
theorem linkClass_iff (e : LinkEntry) :
    (linkClass e.txn.kind = .safety ↔ e.rank = 0) ∧ (linkClass e.txn.kind = .attention ↔ e.rank = 1)
      ∧ (linkClass e.txn.kind = .sample ↔ e.rank = 2) ∧ (linkClass e.txn.kind = .action ↔ e.rank = 3) := by
  unfold LinkEntry.rank
  cases e.txn <;> simp [linkClass, Txn.kind]

/-- All that sending does where an entry is to be selected: it leaves the list and is in flight (R150). -/
theorem send_of_selects {before after : List LinkEntry} {e : LinkEntry} (free : l.inFlight = none)
    (h : l.Selects before e after) :
    l.send = { l with entries := before ++ after, inFlight := some ⟨e, .live⟩ } := by
  have none_below (c : LinkClass) (r : Nat) (hc : ∀ x : LinkEntry, linkClass x.txn.kind = c ↔ x.rank = r)
      (hr : r < e.rank) : l.firstOf c = none := by
    unfold firstOf
    rw [List.find?_eq_none, h.place]
    intro x hx
    simp only [Bool.and_eq_true, beq_iff_eq, Bool.not_eq_true', not_and, Bool.not_eq_false, hc, passedOver_iff free]
    intro hxr
    rcases List.mem_append.1 hx with hx | hx
    · exact (h.before x hx).resolve_right (by omega)
    · rcases List.mem_cons.1 hx with rfl | hx
      · omega
      · exact (h.after x hx).resolve_right (by omega)
  have first (c : LinkClass) (r : Nat) (hc : ∀ x : LinkEntry, linkClass x.txn.kind = c ↔ x.rank = r)
      (hr : e.rank = r) : l.firstOf c = some e := by
    unfold firstOf
    rw [h.place, List.find?_append, List.find?_eq_none.2, List.find?_cons_of_pos]
    · rfl
    · simp only [Bool.and_eq_true, beq_iff_eq, Bool.not_eq_true', ← Bool.not_eq_true, hc, passedOver_iff free]
      exact ⟨hr, h.chosen⟩
    · intro x hx
      simp only [Bool.and_eq_true, beq_iff_eq, Bool.not_eq_true', not_and, Bool.not_eq_false, hc, passedOver_iff free]
      intro hxr
      exact (h.before x hx).resolve_right (by omega)
  have selected : l.select = some e := by
    have safety := fun x => (linkClass_iff x).1
    have attention := fun x => (linkClass_iff x).2.1
    have sample := fun x => (linkClass_iff x).2.2.1
    have action := fun x => (linkClass_iff x).2.2.2
    unfold select
    rcases hr : e.rank with _ | _ | _ | _ | r
    · rw [first _ _ safety hr]; rfl
    · rw [none_below _ _ safety (by omega), first _ _ attention hr]; rfl
    · rw [none_below _ _ safety (by omega), none_below _ _ attention (by omega), first _ _ sample hr]; rfl
    · rw [none_below _ _ safety (by omega), none_below _ _ attention (by omega), none_below _ _ sample (by omega),
        first _ _ action hr]; rfl
    · unfold LinkEntry.rank at hr
      split at hr <;> omega
  unfold send
  rw [free, selected]
  dsimp only
  rw [h.place, List.erase_append_right, List.erase_cons_head]
  intro hm
  rcases h.before e hm with p | p
  · exact h.chosen p
  · omega

/-- With a transaction in flight, or with every entry passed over, nothing is sent (R150). -/
theorem send_of_none (h : l.inFlight ≠ none ∨ ∀ e ∈ l.entries, l.passes e) : l.send = l := by
  unfold send
  cases free : l.inFlight with
  | some f => rfl
  | none =>
    have none_of (c : LinkClass) : l.firstOf c = none := by
      unfold firstOf
      rw [List.find?_eq_none]
      intro x hx
      simp [(passedOver_iff free x).2 (h.resolve_left (by simp [free]) x hx)]
    simp [select, none_of]

end Link

/-! ## Frames of the spot link -/

/-- A reply frame of a station and kind, with the length of the kind or with the flags alone and PRESENT clear, is taken
with its flags and data, whatever follows it (R144, R145). -/
theorem takeFrame_linkReplyFrame (n : SpotNo) (kind : LinkKind) (flags : Byte) (data extra : List Byte)
    (h : data.length + 1 = replyLength kind ∨ (data = [] ∧ flags.getLsbD 0 = false)) :
    takeFrame n kind (linkReplyFrame n kind flags data ++ extra) =
      some ⟨flags.getLsbD 0, flags.getLsbD 1, flags.getLsbD 2, data⟩ := by
  have hl : data.length + 1 < 256 := by
    rcases h with h | ⟨h, _⟩
    · rw [h]
      cases kind <;> decide
    · simp [h]
  have hk : kind.code % 256 = kind.code := by cases kind <;> rfl
  have h2 : num1 (linkReplyFrame n kind flags data ++ extra) 2 = data.length + 1 := by
    simp [linkReplyFrame, num1, byteAt]
    omega
  have h3 : byteAt (linkReplyFrame n kind flags data ++ extra) 3 = flags := rfl
  have h0 : byteAt (linkReplyFrame n kind flags data ++ extra) 0 = addressByte (some n) := rfl
  have h1 : num1 (linkReplyFrame n kind flags data ++ extra) 1 = kind.code := by
    simp [linkReplyFrame, num1, byteAt]
    omega
  set covered := addressByte (some n) :: BitVec.ofNat 8 kind.code :: BitVec.ofNat 8 (data.length + 1) :: flags :: data
    with hcov
  have hf : linkReplyFrame n kind flags data ++ extra = covered ++ crc8 covered :: extra := by
    simp [linkReplyFrame, hcov]
  have hlen : covered.length = data.length + 4 := by simp [hcov]
  have hc : byteAt (linkReplyFrame n kind flags data ++ extra) (data.length + 1 + 3) = crc8 covered := by
    rw [hf, byteAt, List.getD_eq_getElem?_getD, List.getElem?_append_right (by omega)]
    simp [hlen]
  have ht : (linkReplyFrame n kind flags data ++ extra).take (data.length + 1 + 3) = covered := by
    rw [hf, List.take_append_of_le_length (by omega), List.take_of_length_le (by omega)]
  have hdata : ((linkReplyFrame n kind flags data ++ extra).drop 4).take (data.length + 1 - 1) = data := by
    simp [linkReplyFrame]
  have hge : data.length + 1 + 4 ≤ (linkReplyFrame n kind flags data ++ extra).length := by
    rw [hf]
    simp only [List.length_append, List.length_cons] at hlen ⊢
    omega
  have hn3 : num1 (linkReplyFrame n kind flags data ++ extra) 3 = flags.toNat := by rw [num1, h3]
  have hb : ∀ i, bit flags.toNat i = flags.getLsbD i := fun i => BitVec.testBit_toNat flags
  unfold takeFrame
  rw [if_pos]
  · unfold readReply
    simp only [hn3, hb, h2, hdata]
  · unfold replyValid
    rw [h2, hc, ht, h0, h1, hn3, hb]
    simp only [beq_self_eq_true, Bool.and_true, decide_eq_true hge, Bool.true_and]
    rcases h with h | ⟨h, hp⟩
    · simp [h]
    · rw [hp]
      simp [h]

namespace State

/-- A reply that a transaction awaits, with PRESENT set, is taken by its kind's own step (R144). -/
theorem takeReply_present {s : State} {f : InFlight} {n : SpotNo} {txn : Txn} (a : Awaits s f n txn) (flags : Byte)
    (data : List Byte) (taken : State → State → SpotNo → InFlight → LinkReply → State)
    (h : data.length + 1 = replyLength txn.kind) (hp : flags.getLsbD 0 = true) :
    s.takeReply txn.kind (linkReplyFrame n txn.kind flags data) taken =
      taken s.freeLink s n f ⟨true, flags.getLsbD 1, flags.getLsbD 2, data⟩ := by
  have t := takeFrame_linkReplyFrame n txn.kind flags data [] (.inl h)
  rw [List.append_nil] at t
  unfold takeReply
  simp only [a.flight, a.station, a.txn, t, hp, if_true, bne_self_eq_false, Bool.false_eq_true, if_false]
  have : (f.mark == .dropped) = false := by simpa using a.notDropped
  simp [this]

/-! ## A changeover's expiry beside a fault (R97) -/

/-- All that a fault state already active lets an expiry taken beside it do: the free choice is used up, and the
changeover stands, or is complete where its expiry is owed. -/
theorem expiryBesideFault_of_frozen (s : State) (h : s.frozen = true) : ∃ choices c,
    s.expiryBesideFault = { s with choices := choices, comp := c }
      ∧ (c = s.comp ∨ (s.comp.changeoverDue = true ∧ c = s.comp.completeChangeover)) := by
  unfold expiryBesideFault
  split
  · dsimp only
    split
    · exact ⟨s.choices + 1, s.comp, rfl, .inl rfl⟩
    · refine ⟨s.choices + 1, s.comp.completeChangeover, ?_, .inr ⟨‹_›, rfl⟩⟩
      exact examine_of_frozen (_ : State) h
  · exact ⟨s.choices, s.comp, rfl, .inl rfl⟩

end State

end Sys2Proof.Machine
end

