-- ==== Sys2Proof/Laws/Kept.lean ====
section
/-! SUPPORT. What the bounds of the state are kept by: each metering step keeps a record in range, each change of the
pending list keeps one entry a pair, each change of a trip record keeps its causes in order, each shared operation keeps
the capacities. -/

namespace Sys2Proof.Machine

/-! ## Metering steps -/

namespace Meter.InRange

variable {m : Meter}

theorem fresh : Meter.fresh.InRange := by constructor <;> decide

theorem addSat_le (acc x : Nat) : addSat acc x ≤ 4294967295 := Nat.min_le_right ..

theorem count32_le (n : Nat) : count32 n ≤ 4294967295 := Nat.min_le_right ..

/-- A change that touches no bounded field. -/
theorem of_same (h : m.InRange) {k : Meter} (volume : k.volume = m.volume) (liquid : k.liquid = m.liquid)
    (returned : k.vapourReturned = m.vapourReturned) (recovered : k.vapourRecovered = m.vapourRecovered)
    (rm : k.rm = m.rm) (rr : k.rr = m.rr) (rc : k.rc = m.rc) (windows : k.windowsCounted = m.windowsCounted)
    (estimated : k.estimatedWindows = m.estimatedWindows) (heldRun : k.heldRun = m.heldRun) (heldT : k.heldT = m.heldT)
    (heldDp : k.heldDp = m.heldDp) (heldPv : k.heldPv = m.heldPv)
    (read : k.windowRead.isSome → m.windowRead.isSome) : k.InRange where
  volume := volume ▸ h.volume
  liquid := liquid ▸ h.liquid
  vapourReturned := returned ▸ h.vapourReturned
  vapourRecovered := recovered ▸ h.vapourRecovered
  rm := rm ▸ h.rm
  rr := rr ▸ h.rr
  rc := rc ▸ h.rc
  windows := windows ▸ h.windows
  estimated := by rw [windows, estimated]; exact h.estimated
  outstanding := by rw [windows, estimated]; exact fun x => h.outstanding (read x)
  heldRun := heldRun ▸ h.heldRun
  heldTLow := heldT ▸ h.heldTLow
  heldTHigh := heldT ▸ h.heldTHigh
  heldDp := heldDp ▸ h.heldDp
  heldPvLow := heldPv ▸ h.heldPvLow
  heldPvHigh := heldPv ▸ h.heldPvHigh

theorem clampT_range (t : Int) : -5000 ≤ (clampT t).value ∧ (clampT t).value ≤ 6000 := by
  unfold clampT
  split
  · simp
  · split
    · simp
    · simp only; omega

theorem clampDp_range (dp : Nat) : (clampDp dp).value ≤ 25000 := by
  unfold clampDp
  split <;> simp
  omega

theorem clampPv_range (pv : Nat) : 100 ≤ (clampPv pv).value ∧ (clampPv pv).value ≤ 2500 := by
  unfold clampPv
  split
  · simp
  · split
    · simp
    · simp only; omega

theorem heldT_renew (m : Meter) (x : Sample) : (m.renew x).heldT = (x.temp.map clampT).getD m.heldT := rfl

theorem heldDp_renew (m : Meter) (x : Sample) : (m.renew x).heldDp = (x.dp.map clampDp).getD m.heldDp := rfl

theorem heldPv_renew (m : Meter) (x : Sample) : (m.renew x).heldPv = (x.pv.map clampPv).getD m.heldPv := rfl

/-- The held values renewed by a reply lie in their ranges (R56, R57). -/
theorem renew (h : m.InRange) (x : Sample) : (m.renew x).InRange where
  volume := h.volume
  liquid := h.liquid
  vapourReturned := h.vapourReturned
  vapourRecovered := h.vapourRecovered
  rm := h.rm
  rr := h.rr
  rc := h.rc
  windows := h.windows
  estimated := h.estimated
  outstanding := h.outstanding
  heldRun := h.heldRun
  heldTLow := by
    rw [heldT_renew]
    cases x.temp with
    | none => exact h.heldTLow
    | some t => exact (clampT_range t).1
  heldTHigh := by
    rw [heldT_renew]
    cases x.temp with
    | none => exact h.heldTHigh
    | some t => exact (clampT_range t).2
  heldDp := by
    rw [heldDp_renew]
    cases x.dp with
    | none => exact h.heldDp
    | some t => exact clampDp_range t
  heldPvLow := by
    rw [heldPv_renew]
    cases x.pv with
    | none => exact h.heldPvLow
    | some t => exact (clampPv_range t).1
  heldPvHigh := by
    rw [heldPv_renew]
    cases x.pv with
    | none => exact h.heldPvHigh
    | some t => exact (clampPv_range t).2

theorem bookLiquid (h : m.InRange) (c : SpotConfig) (g : Option Grade) (p : Nat) : (m.bookLiquid c g p).InRange := by
  simp only [Meter.bookLiquid]
  generalize (p * 1000000 + m.rv) / c.k = v
  generalize (p * 1000000 + m.rv) % c.k = rv
  generalize v * gradeDensity g m.heldT.value + m.rm = grams
  have low : grams % 100000 < 100000 := Nat.mod_lt grams (by decide)
  generalize grams % 100000 = rm at low ⊢
  exact { h with volume := addSat_le .., liquid := addSat_le .., rm := low }

theorem bookVapour (h : m.InRange) (c : SpotConfig) (phase : Phase) (period : Nat) :
    (m.bookVapour c phase period).InRange := by
  unfold Meter.bookVapour
  generalize m.vapourNum c period = num
  cases phase
  · simp only
    have low : (num + m.rr) % 16000000 < 16000000 := Nat.mod_lt _ (by decide)
    generalize (num + m.rr) % 16000000 = rr at low ⊢
    generalize (num + m.rr) / 16000000 = x
    exact { h with vapourReturned := addSat_le .., rr := low }
  · simp only
    have low : (num + m.rc) % 16000000 < 16000000 := Nat.mod_lt _ (by decide)
    generalize (num + m.rc) % 16000000 = rc at low ⊢
    generalize (num + m.rc) / 16000000 = x
    exact { h with vapourRecovered := addSat_le .., rc := low }

/-- The count of estimated windows rises where that leaves it within the windows counted (R65). -/
theorem markEstimated (h : m.InRange) (estimated : Bool) (room : m.estimatedWindows < m.windowsCounted ∨
      m.windowsCounted = 4294967295)
    (after : m.windowRead.isSome → m.estimatedWindows + 1 < m.windowsCounted ∨ m.windowsCounted = 4294967295) :
    (m.markEstimated estimated).InRange := by
  unfold Meter.markEstimated
  split
  · refine { h with estimated := ?_, outstanding := fun x => ?_, heldRun := Nat.min_le_right .. }
    · rcases room with r | r
      · exact (Nat.min_le_left ..).trans r
      · show count32 m.estimatedWindows ≤ m.windowsCounted
        rw [r]
        exact count32_le _
    · rcases after x with r | r
      · exact .inl (Nat.lt_of_le_of_lt (Nat.min_le_left ..) r)
      · exact .inr r
  · exact { h with heldRun := Nat.zero_le _ }

theorem checkWindow (h : m.InRange) (c : SpotConfig) (g : Option Grade) (target : Option Nat) (w : WindowRead)
    (v : Nat) (estimated : Bool) (fresh : Option Nat) : (m.checkWindow c g target w v estimated fresh).1.InRange := by
  unfold Meter.checkWindow
  split
  · split
    · exact h
    · split
      · exact h
      · exact { h with }
  · split <;> exact h

theorem windowsCounted_booked (c : SpotConfig) (g : Option Grade) (p : Nat) (phase : Phase) (period : Nat) :
    ((m.bookLiquid c g p).bookVapour c phase period).windowsCounted = m.windowsCounted := by
  cases m; cases phase <;> rfl

theorem estimatedWindows_booked (c : SpotConfig) (g : Option Grade) (p : Nat) (phase : Phase) (period : Nat) :
    ((m.bookLiquid c g p).bookVapour c phase period).estimatedWindows = m.estimatedWindows := by
  cases m; cases phase <;> rfl

theorem windowRead_booked (c : SpotConfig) (g : Option Grade) (p : Nat) (phase : Phase) (period : Nat) :
    ((m.bookLiquid c g p).bookVapour c phase period).windowRead = m.windowRead := by
  cases m; cases phase <;> rfl

/-- A window computed leaves the record in range, where there is room for it to be estimated (R53). -/
theorem computeWindow (h : m.InRange) (c : SpotConfig) (g : Option Grade) (target : Option Nat) (w : WindowRead)
    (p : Nat) (estimated : Bool) (fresh : Option Nat) (room : m.estimatedWindows < m.windowsCounted ∨
      m.windowsCounted = 4294967295)
    (after : m.windowRead.isSome → m.estimatedWindows + 1 < m.windowsCounted ∨ m.windowsCounted = 4294967295) :
    (m.computeWindow c g target w p estimated fresh).1.InRange := by
  simp only [Meter.computeWindow]
  apply checkWindow
  apply markEstimated ((h.bookLiquid c g p).bookVapour c w.phase w.period)
  · rw [windowsCounted_booked, estimatedWindows_booked]; exact room
  · rw [windowsCounted_booked, estimatedWindows_booked, windowRead_booked]; exact after

/-- A window closed while a read is outstanding: counted, and computed as an estimated window (R50, R52). -/
theorem windowMissed (h : m.InRange) (read : m.windowRead.isSome) (c : SpotConfig) (g : Option Grade)
    (target : Option Nat) (w : WindowRead) :
    (({ m with windowsCounted := count32 m.windowsCounted } : Meter).computeWindow c g target w 0 true none).1.InRange := by
  have out := h.outstanding read
  have win := h.windows
  have est := h.estimated
  have counted : count32 m.windowsCounted = m.windowsCounted + 1 ∧ m.windowsCounted < 4294967295 ∨
      count32 m.windowsCounted = 4294967295 ∧ m.windowsCounted = 4294967295 := by
    simp only [count32, max32]; omega
  have base : ({ m with windowsCounted := count32 m.windowsCounted } : Meter).InRange :=
    { h with windows := count32_le _, estimated := by dsimp only; omega, outstanding := fun _ => by dsimp only; omega }
  exact base.computeWindow c g target w 0 true none (by dsimp only; omega) fun _ => by dsimp only; omega

/-- A window closed with no read outstanding: counted, and its read opened (R50). -/
theorem windowOpened (h : m.InRange) (w : WindowRead) :
    ({ m with windowsCounted := count32 m.windowsCounted, windowRead := some w } : Meter).InRange := by
  have win := h.windows
  have est := h.estimated
  have counted : count32 m.windowsCounted = m.windowsCounted + 1 ∨ count32 m.windowsCounted = 4294967295 := by
    simp only [count32, max32]; omega
  refine { h with windows := count32_le _, estimated := ?_, outstanding := fun _ => ?_ }
  all_goals dsimp only; omega

/-- The outstanding window read completes (R53). -/
theorem windowCompleted (h : m.InRange) (read : m.windowRead.isSome) (c : SpotConfig) (g : Option Grade)
    (target : Option Nat) (w : WindowRead) (p : Nat) (estimated : Bool) (fresh : Option Nat) :
    (({ m with windowRead := none } : Meter).computeWindow c g target w p estimated fresh).1.InRange := by
  have base : ({ m with windowRead := none } : Meter).InRange := { h with outstanding := nofun }
  exact base.computeWindow c g target w p estimated fresh (h.outstanding read) nofun

end Meter.InRange

/-! ## The pending list -/

/-- No two entries are of one pair. -/
def Distinct (l : List LinkEntry) : Prop := l.Pairwise fun a b => a.samePair b = false

namespace Distinct

variable {l m : List LinkEntry}

theorem filter (h : Distinct l) (p : LinkEntry → Bool) : Distinct (l.filter p) := List.Pairwise.filter p h

theorem sublist (h : Distinct l) (s : m.Sublist l) : Distinct m := List.Pairwise.sublist s h

/-- A change of the entries that leaves each of its pair. -/
theorem map (h : Distinct l) (f : LinkEntry → LinkEntry)
    (same : ∀ e, (f e).station = e.station ∧ (f e).txn.kind = e.txn.kind) : Distinct (l.map f) := by
  refine List.Pairwise.map f (fun a b hab => ?_) h
  simpa [LinkEntry.samePair, (same a).1, (same a).2, (same b).1, (same b).2] using hab

end Distinct

theorem Txn.kind_merge (a b : Txn) : (a.merge b).kind = a.kind := by
  cases a <;> cases b <;> rfl

/-- An entry joins by merging or at the tail, so that its pair stands once (R148, R149). -/
theorem Link.distinct_join (l : Link) (e : LinkEntry) (h : Distinct l.entries) : Distinct (l.join e).entries := by
  unfold Link.join
  split
  · refine h.map _ fun p => ?_
    split
    · exact ⟨rfl, Txn.kind_merge ..⟩
    · exact ⟨rfl, rfl⟩
  · rename_i none
    refine List.pairwise_append.mpr ⟨h, List.pairwise_singleton .., fun a ha b hb => ?_⟩
    obtain rfl := List.mem_singleton.mp hb
    have := List.any_eq_false.mp (Bool.eq_false_iff.mpr none) a ha
    simpa [LinkEntry.samePair, LinkEntry.isPair] using this

theorem Link.distinct_send (l : Link) (h : Distinct l.entries) : Distinct l.send.entries := by
  unfold Link.send
  split
  · exact h
  · split
    · exact h.sublist List.erase_sublist
    · exact h

theorem Link.distinct_withdraw (l : Link) (n : SpotNo) (k : LinkKind) (h : Distinct l.entries) :
    Distinct (l.withdraw n k).entries := h.filter _

/-! ## Bounds kept from one state to another -/

/-- The ticket unit's bounds (R166, R167, R174). -/
structure TicketUnit.Bounded (u : TicketUnit) : Prop where
  queue : u.queue.length ≤ 16
  waitOnlyWhenFull : u.wait ≠ [] → u.queue.length = 16
  serialLow : 1 ≤ u.serial
  serialHigh : u.serial ≤ 4294967295

theorem TicketUnit.Bounded.place {u : TicketUnit} (h : u.Bounded) (n : SpotNo) (t : Ticket) : (u.place n t).Bounded := by
  have low : 1 ≤ nextSerial u.serial ∧ nextSerial u.serial ≤ 4294967295 := by
    have := h.serialHigh
    unfold nextSerial
    split
    · decide
    · rename_i ne
      simp only [max32, beq_iff_eq] at ne
      omega
  unfold TicketUnit.place
  split
  · rename_i room
    refine ⟨by simp only [List.length_append, List.length_singleton]; omega, fun w => ?_, low.1, low.2⟩
    have := h.waitOnlyWhenFull w
    omega
  · rename_i full
    have := h.queue
    exact ⟨h.queue, fun _ => by dsimp only; omega, low.1, low.2⟩

/-! ## Trip records -/

namespace SpotRecord.TripInOrder

variable {r k : SpotRecord}

/-- A change that leaves the trip record. -/
theorem of_same (h : r.TripInOrder) (same : k.trip = r.trip) : k.TripInOrder := fun t e => h t (same ▸ e)

/-- A record without one. -/
theorem cleared (none : k.trip = none) : k.TripInOrder := fun t e => by rw [none] at e; cases e

/-- A union of cause sets stands in number order. -/
theorem causeUnion (a b : List TripCause) :
    causeUnion a b = TripCause.all.filter fun c => c ∈ Machine.causeUnion a b := by
  unfold Machine.causeUnion
  refine List.filter_congr fun c hc => ?_
  simp [hc]

/-- The record of a spot that trips (R113). -/
theorem toTripped (r : SpotRecord) (first : TripCause) (a b : List TripCause) :
    (r.toTripped ⟨first, Machine.causeUnion a b⟩).TripInOrder := fun t e => by
  obtain rfl := Option.some.inj e
  exact causeUnion a b

/-- The record of a TRIPPED spot that adds causes (R115). -/
theorem addCauses (r : SpotRecord) (brought : List TripCause) : (r.addCauses brought).TripInOrder := fun t e => by
  obtain ⟨u, -, rfl⟩ := Option.map_eq_some_iff.1 e
  exact causeUnion ..

/-- A valve's command state is no part of the trip record. -/
theorem trip_setValve (r : SpotRecord) (side : ValveSide) (c : ValveCommand) : (r.setValve side c).trip = r.trip := by
  cases side <;> rfl

end SpotRecord.TripInOrder

/-- Every bound that holds in `s` holds in `t`. -/
structure Kept (s t : State) : Prop where
  manifest : s.manifest.length ≤ 24 → t.manifest.length ≤ 24
  tickets : s.tickets.Bounded → t.tickets.Bounded
  buffer : s.line.buffer.length ≤ 1030 → t.line.buffer.length ≤ 1030
  meters : ∀ n, (s.meter n).InRange → (t.meter n).InRange
  entries : Distinct s.link.entries → Distinct t.link.entries
  trips : ∀ n, (s.spot n).TripInOrder → (t.spot n).TripInOrder

namespace Kept

variable {s t u : State}

theorem refl (s : State) : Kept s s := ⟨id, id, id, fun _ => id, id, fun _ => id⟩

theorem trans (a : Kept s t) (b : Kept t u) : Kept s u :=
  ⟨b.manifest ∘ a.manifest, b.tickets ∘ a.tickets, b.buffer ∘ a.buffer, fun n => b.meters n ∘ a.meters n,
   b.entries ∘ a.entries, fun n => b.trips n ∘ a.trips n⟩

/-- A change that touches none of the bounded parts. -/
theorem of_same (manifest : t.manifest = s.manifest) (tickets : t.tickets = s.tickets)
    (buffer : t.line.buffer = s.line.buffer) (meters : ∀ n, t.meter n = s.meter n)
    (entries : t.link.entries = s.link.entries) (trips : ∀ n, (t.spot n).trip = (s.spot n).trip) : Kept s t :=
  ⟨by rw [manifest]; exact id, by rw [tickets]; exact id, by rw [buffer]; exact id,
   fun n => by rw [meters]; exact id, by rw [entries]; exact id,
   fun n h => h.of_same (trips n)⟩

theorem ite {c : Prop} [Decidable c] (a : Kept s t) (b : Kept s u) : Kept s (if c then t else u) := by
  split <;> assumption

theorem setSpot (s : State) (n : SpotNo) (r : SpotRecord) (h : (s.spot n).TripInOrder → r.TripInOrder) :
    Kept s (s.setSpot n r) :=
  ⟨id, id, id, fun _ => id, id, fun k => by
    rw [State.spot_setSpot]
    split
    · subst_vars; exact h
    · exact id⟩

/-- A change of a spot record that leaves its trip record. -/
theorem onSpot (s : State) (n : SpotNo) (f : SpotRecord → SpotRecord) (h : (f (s.spot n)).trip = (s.spot n).trip) :
    Kept s (s.onSpot n f) := setSpot _ _ _ fun x => x.of_same h

/-- A change of a spot record that clears its trip record. -/
theorem clearTrip (s : State) (n : SpotNo) (f : SpotRecord → SpotRecord) (h : (f (s.spot n)).trip = none) :
    Kept s (s.onSpot n f) := setSpot _ _ _ fun _ => .cleared h

theorem setComp (s : State) (c : Compressor) : Kept s (s.setComp c) := of_same rfl rfl rfl (fun _ => rfl) rfl fun _ => rfl

theorem setStation (s : State) (n : SpotNo) (r : Station) : Kept s (s.setStation n r) :=
  of_same rfl rfl rfl (fun _ => rfl) rfl fun _ => rfl

theorem onStation (s : State) (n : SpotNo) (f : Station → Station) : Kept s (s.onStation n f) := setStation ..

theorem setProofRecord (s : State) (v : ValveIndex) (p : ProofRecord) : Kept s (s.setProofRecord v p) :=
  of_same rfl rfl rfl (fun _ => rfl) rfl fun _ => rfl

theorem setStroke (s : State) (k : Option Stroke) : Kept s (s.setStroke k) := of_same rfl rfl rfl (fun _ => rfl) rfl fun _ => rfl

theorem setSiding (s : State) (d : Siding) : Kept s (s.setSiding d) := of_same rfl rfl rfl (fun _ => rfl) rfl fun _ => rfl

theorem setGrade (s : State) (g : GradeNo) (r : Grade) : Kept s (s.setGrade g r) := of_same rfl rfl rfl (fun _ => rfl) rfl fun _ => rfl

theorem setMeter (s : State) (n : SpotNo) (m : Meter) (h : (s.meter n).InRange → m.InRange) : Kept s (s.setMeter n m) :=
  ⟨id, id, id, fun k => by
    rw [State.meter_setMeter]
    split
    · subst_vars; exact h
    · exact id, id, fun _ => id⟩

theorem setLink (s : State) (l : Link) (h : Distinct s.link.entries → Distinct l.entries) : Kept s (s.setLink l) :=
  ⟨id, id, id, fun _ => id, h, fun _ => id⟩

theorem setTickets (s : State) (u : TicketUnit) (h : s.tickets.Bounded → u.Bounded) : Kept s (s.setTickets u) :=
  ⟨id, h, id, fun _ => id, id, fun _ => id⟩

theorem setManifest (s : State) (l : List CarRecord) (h : s.manifest.length ≤ 24 → l.length ≤ 24) :
    Kept s (s.setManifest l) := ⟨h, id, id, fun _ => id, id, fun _ => id⟩

theorem setLine (s : State) (l : LineUnit) (h : s.line.buffer.length ≤ 1030 → l.buffer.length ≤ 1030) :
    Kept s (s.setLine l) := ⟨id, id, h, fun _ => id, id, fun _ => id⟩

/-! ### The link -/

theorem join (s : State) (e : LinkEntry) : Kept s (s.join e) := setLink _ _ (s.link.distinct_join e)

theorem request (s : State) (n : SpotNo) (t : Txn) : Kept s (s.request n t) := ite (join ..) (refl _)

theorem queueInit (s : State) (n : SpotNo) : Kept s (s.queueInit n) := ite (refl _) (join ..)

theorem requestClose (s : State) (n : SpotNo) : Kept s (s.requestClose n) :=
  ite (setLink _ _ fun h => Link.distinct_withdraw _ _ _ (s.link.distinct_join _ h)) (refl _)

theorem judgePoll (s : State) : Kept s s.judgePoll := ite (join ..) (refl _)

theorem judgePollIf (s : State) (b : Bool) : Kept s (s.judgePollIf b) := ite (judgePoll _) (refl _)

/-! ### Valves, shares, transitions -/

theorem driveOpen (s : State) (n : SpotNo) (v : ValveSet) : Kept s (s.driveOpen n v) :=
  ite (refl _) ((onSpot _ _ _ (by rfl)).trans (request ..))

theorem openValves (s : State) (n : SpotNo) (v : ValveSet) : Kept s (s.openValves n v) :=
  (setSpot _ _ _ fun h => h.of_same (by rfl)).trans (driveOpen ..)

theorem closeValves (s : State) (n : SpotNo) : Kept s (s.closeValves n) :=
  ite (setSpot _ _ _ fun h => h.of_same (by rfl)) ((setSpot _ _ _ fun h => h.of_same (by rfl)).trans (requestClose ..))

theorem closeDone (s : State) (n : SpotNo) : Kept s (s.closeDone n) := (onSpot _ _ _ (by rfl)).trans (driveOpen ..)

theorem initDone (s : State) (n : SpotNo) : Kept s (s.initDone n) := (onSpot _ _ _ (by rfl)).trans (driveOpen ..)

theorem onMeter (s : State) (n : SpotNo) (f : Meter → Meter) (h : (s.meter n).InRange → (f (s.meter n)).InRange) :
    Kept s (s.onMeter n f) := setMeter _ _ _ h

theorem abandonClosing (s : State) (n : SpotNo) : Kept s (s.onMeter n Meter.abandonClosing) :=
  onMeter _ _ _ fun h => { h with }

theorem requestClosing (s : State) (n : SpotNo) : Kept s (s.requestClosing n) :=
  ite (refl _) (ite ((abandonClosing ..).trans (onSpot _ _ _ (by rfl)))
    ((onMeter _ _ _ fun h => { h with }).trans (request ..)))

theorem purgeRest (s : State) (n : SpotNo) : Kept s (s.purgeRest n) := (closeValves ..).trans (requestClosing ..)

theorem beginTransfer (s : State) (n : SpotNo) : Kept s (s.beginTransfer n) :=
  ((onSpot s n (·.toTransfer s.siding.config.window) rfl).trans (onMeter _ _ _ fun h => { h with })).trans (openValves ..)

theorem enterTransfer (s : State) (n : SpotNo) : Kept s (s.enterTransfer n) :=
  ite ((beginTransfer ..).trans ((onSpot _ _ _ (by rfl)).trans ((setComp ..).trans (purgeRest ..)))) (beginTransfer ..)

theorem grant (s : State) (e : QueueEntry) (rest : List QueueEntry) : Kept s (s.grant e rest) := by
  unfold State.grant
  split
  · exact (setComp ..).trans (enterTransfer ..)
  · exact (setComp ..).trans ((onSpot _ _ _ (by rfl)).trans (openValves ..))

theorem examineUpTo (bound : Nat) (s : State) : Kept s (State.examineUpTo bound s) := by
  induction bound generalizing s with
  | zero => exact refl _
  | succ bound ih =>
    unfold State.examineUpTo
    split
    · exact refl _
    · split
      · exact refl _
      · split
        · exact (grant ..).trans (ih _)
        · exact ite (setComp ..) (refl _)

theorem examine (s : State) : Kept s s.examine := examineUpTo ..

theorem giveUp (s : State) (n : SpotNo) : Kept s (s.giveUp n) := ite ((setComp ..).trans (examine _)) (setComp ..)

theorem askShare (s : State) (n : SpotNo) (kind : Duty) : Kept s (s.askShare n kind) := (setComp ..).trans (examine _)

theorem enterPurge (s : State) (n : SpotNo) (reason : Option EndReason) : Kept s (s.enterPurge n reason) :=
  ((onSpot _ _ _ (by rfl)).trans (giveUp ..)).trans (purgeRest ..)

theorem enterHeld (s : State) (n : SpotNo) (reason : HoldReason) : Kept s (s.enterHeld n reason) :=
  ((onSpot _ _ _ (by rfl)).trans (giveUp ..)).trans (closeValves ..)

theorem enterStartWait (s : State) (n : SpotNo) : Kept s (s.enterStartWait n) := (onSpot _ _ _ (by rfl)).trans (askShare ..)

theorem emptyToStripWait (s : State) (n : SpotNo) : Kept s (s.emptyToStripWait n) :=
  (((onSpot _ _ _ (by rfl)).trans (giveUp ..)).trans (closeValves ..)).trans (askShare ..)

theorem resumeStripWait (s : State) (n : SpotNo) : Kept s (s.resumeStripWait n) := (onSpot _ _ _ (by rfl)).trans (askShare ..)

theorem trip (s : State) (n : SpotNo) (brought : List TripCause) : Kept s (s.trip n brought) := by
  unfold State.trip
  split
  · exact refl _
  · exact ((setSpot _ _ _ fun _ => SpotRecord.TripInOrder.toTripped _ _ _ _).trans (giveUp ..)).trans (closeValves ..)

theorem takeCauses (s : State) (n : SpotNo) (brought : List TripCause) : Kept s (s.takeCauses n brought) :=
  ite (trip ..) (ite (setSpot _ _ _ fun _ => SpotRecord.TripInOrder.addCauses _ _) (refl _))

theorem connect (s : State) (n : SpotNo) : Kept s (s.connect n) := (onSpot _ _ _ (by rfl)).trans (takeCauses ..)

theorem enterComplete (s : State) (n : SpotNo) : Kept s (s.enterComplete n) :=
  ite (onSpot _ _ _ (by rfl)) (clearTrip _ _ _ (by rfl))

theorem moveOnInputs (s : State) (n : SpotNo) : Kept s (s.moveOnInputs n) := by
  unfold State.moveOnInputs
  split
  · exact ite (connect ..) (refl _)
  · exact ite (refl _) (clearTrip _ _ _ (by rfl))
  · exact refl _

theorem takeOutcome (s : State) (n : SpotNo) (r : WindowReport) : Kept s (s.takeOutcome n r) := by
  unfold State.takeOutcome
  split
  · exact enterPurge ..
  · exact ite (emptyToStripWait ..) (enterPurge ..)
  · exact (onSpot _ _ _ (by rfl)).trans (enterPurge ..)
  · exact refl _

theorem takeStationEvent (s old : State) (n : SpotNo) (extra : List TripCause) (r : Option WindowReport) :
    Kept s (s.takeStationEvent old n extra r) := by
  unfold State.takeStationEvent
  have moved := (takeCauses s n (causeUnion (s.risen old n) extra)).trans (moveOnInputs _ n)
  split
  · exact moved.trans (takeOutcome ..)
  · exact moved

/-! ### Windows, tickets, strokes, lost stations -/

theorem completeWindow (s : State) (n : SpotNo) (p : Nat) (estimated : Bool) (fresh : Option Nat) :
    Kept s (s.completeWindow n p estimated fresh).1 := by
  unfold State.completeWindow
  split
  · exact refl _
  · rename_i w hw
    simp only [State.computeWindow, State.onMeter_eq, State.setMeter_setMeter, State.meter_setMeter_self]
    exact setMeter _ _ _ fun h => h.windowCompleted (by rw [hw]; rfl) ..

theorem missWindow (s : State) (n : SpotNo) : Kept s (s.missWindow n).1 := completeWindow ..

theorem missWindowIf (s : State) (n : SpotNo) (owed : Bool) : Kept s (s.missWindowIf n owed).1 := by
  unfold State.missWindowIf
  split
  · exact missWindow ..
  · exact refl _

theorem endPurge (s : State) (n : SpotNo) : Kept s (s.endPurge n) := by
  unfold State.endPurge
  dsimp only
  split
  · exact ((setTickets _ _ fun h => h.place ..).trans (onSpot _ _ _ (by rfl))).trans (ite (enterComplete ..) (onSpot _ _ _ (by rfl)))
  · exact refl _

theorem settleClosing (s : State) (n : SpotNo) : Kept s (s.settleClosing n) :=
  (onSpot _ _ _ (by rfl)).trans (ite (endPurge ..) (refl _))

theorem startStroke (s : State) (v : ValveIndex) (o : StrokeOrigin) : Kept s (s.startStroke v o) :=
  ((setStroke ..).trans (onSpot _ _ _ (SpotRecord.TripInOrder.trip_setValve ..))).trans (request ..)

theorem endStroke (s : State) (k : Stroke) (drive : Bool) : Kept s (s.endStroke k drive) := by
  have step : Kept (s.setStroke none) ((s.setStroke none).setLink
      (((s.setStroke none).link.withdraw (valveSpot k.valve) .stroke).markWithdrawn (valveSpot k.valve) .stroke)) :=
    setLink _ _ fun h => Link.distinct_withdraw _ _ _ h
  exact (((setStroke s none).trans step).trans (onSpot _ _ _ (SpotRecord.TripInOrder.trip_setValve ..))).trans (ite (requestClose ..) (refl _))

theorem abortStroke (s : State) (drive : Bool) : Kept s (s.abortStroke drive) := by
  unfold State.abortStroke
  split
  · exact refl _
  · exact (setProofRecord ..).trans (endStroke ..)

theorem abortStrokeOn (s : State) (n : SpotNo) : Kept s (s.abortStrokeOn n) := ite (abortStroke ..) (refl _)

theorem judgeStroke (s : State) (k : Stroke) (t : Nat) : Kept s (s.judgeStroke k t) :=
  (setProofRecord ..).trans (endStroke ..)

theorem dispose (s old : State) (n : SpotNo) (missed : List LinkEntry) : Kept s (s.dispose old n missed) := by
  unfold State.dispose
  exact trans (setLink s _ fun h => h.filter _) (trans ((missWindowIf ..).trans (ite (abandonClosing ..) (refl _)))
    (trans (abortStrokeOn ..) (trans (takeStationEvent ..)
      (trans (ite (settleClosing ..) (refl _)) (judgePollIf ..)))))

theorem becomeLost (s old : State) (n : SpotNo) (missed : List LinkEntry) : Kept s (s.becomeLost old n missed) :=
  (onStation ..).trans (dispose ..)

theorem foldl {α : Type} (f : State → α → State) (h : ∀ t a, Kept t (f t a)) (l : List α) (s : State) :
    Kept s (l.foldl f s) := by
  induction l generalizing s with
  | nil => exact refl _
  | cons a l ih => exact (h s a).trans (ih _)

theorem tellAll {α : Type} (s : State) (told : List α) (f : State → α → State) (h : ∀ t a, Kept t (f t a)) :
    Kept s (s.tellAll told f) :=
  Kept.trans (t := { s with choices := s.choices + told.length }) (of_same rfl rfl rfl (fun _ => rfl) rfl fun _ => rfl)
    (foldl f h _ _)

end Kept

end Sys2Proof.Machine
end

