-- ==== Sys2Proof/Laws/Polls.lean ====
section
/-! SUPPORT. The attention poll: how a slot's bytes are judged, that a pending INITIALIZE is withdrawn by no event of a
station, and all that a slot with PRESENT clear does. -/

namespace Sys2Proof.Machine

/-! ## Slots (R145, R162) -/

/-- A byte is the one of its number. -/
theorem Byte.eq_of_toNat {b : Byte} {k : Nat} (h : b.toNat = k) : b = BitVec.ofNat 8 k := by
  rw [← h, BitVec.ofNat_toNat, BitVec.setWidth_eq]

/-- A slot whose frame checks, with a length of 1 or 2, holds the frame of its own flags and data. -/
theorem slotFrame_of_checks (n : SpotNo) (frame : List Byte) (h : slotFrameChecks n frame = true)
    (len : num1 frame 2 = 1 ∨ num1 frame 2 = 2) :
    frame = linkReplyFrame n .attentionPoll (byteAt frame 3) ((frame.drop 4).take (num1 frame 2 - 1))
      ++ frame.drop (num1 frame 2 + 4) := by
  simp only [slotFrameChecks, Bool.and_eq_true, decide_eq_true_eq, beq_iff_eq] at h
  obtain ⟨⟨⟨enough, crc⟩, address⟩, kind⟩ := h
  rcases len with len | len
  · rw [len] at enough crc ⊢
    match frame, enough with
    | a :: b :: c :: d :: e :: rest, _ =>
      have hb := Byte.eq_of_toNat (show b.toNat = _ from kind)
      have hc := Byte.eq_of_toNat (show c.toNat = _ from len)
      have ha : a = addressByte (some n) := address
      have he : e = crc8 [a, b, c, d] := crc
      simp only [linkReplyFrame, byteAt]
      simp
      subst ha hb hc
      exact ⟨rfl, rfl, rfl, he⟩
  · rw [len] at enough crc ⊢
    match frame, enough with
    | a :: b :: c :: d :: x :: e :: rest, _ =>
      have hb := Byte.eq_of_toNat (show b.toNat = _ from kind)
      have hc := Byte.eq_of_toNat (show c.toNat = _ from len)
      have ha : a = addressByte (some n) := address
      have he : e = crc8 [a, b, c, d, x] := crc
      simp only [linkReplyFrame, byteAt]
      simp
      subst ha hb hc
      exact ⟨rfl, rfl, rfl, he⟩

/-- The frame of a station's poll answer checks, and its fields are read back. -/
theorem slotFrame_checks (n : SpotNo) (flags : Byte) (data extra : List Byte) (h : data.length ≤ 1) :
    let slot := linkReplyFrame n .attentionPoll flags data ++ extra
    slotFrameChecks n slot = true ∧ num1 slot 2 = data.length + 1 ∧ num1 slot 3 = flags.toNat
      ∧ num1 slot 4 = (if data = [] then num1 slot 4 else num1 data 0) ∧ slot.isEmpty = false := by
  match data, h with
  | [], _ =>
    refine ⟨?_, rfl, rfl, by simp, rfl⟩
    simp [slotFrameChecks, linkReplyFrame, num1, byteAt]
    decide
  | [x], _ =>
    refine ⟨?_, rfl, rfl, rfl, rfl⟩
    simp [slotFrameChecks, linkReplyFrame, num1, byteAt]
    decide

/-- A slot is not initialized where its frame has PRESENT clear, with one attention byte or none (R162). -/
theorem judgeSlot_notInitialized (n : SpotNo) (slot : List Byte) : judgeSlot n slot = .notInitialized ↔
    ∃ flags data extra, flags.getLsbD 0 = false ∧ data.length ≤ 1
      ∧ slot = linkReplyFrame n .attentionPoll flags data ++ extra := by
  constructor
  · intro h
    unfold judgeSlot at h
    split at h; · cases h
    split at h; · cases h
    rename_i hc
    split at h
    · rename_i hh
      simp only [Bool.and_eq_true, Bool.not_eq_true', Bool.or_eq_true, beq_iff_eq] at hh
      have hc : slotFrameChecks n slot = true := by simpa using hc
      refine ⟨byteAt slot 3, _, _, ?_, ?_, slotFrame_of_checks n slot hc hh.2⟩
      · rw [← BitVec.testBit_toNat]; exact hh.1
      · rw [List.length_take]; omega
    · split at h; · cases h
      split at h <;> cases h
  · rintro ⟨flags, data, extra, hp, hd, rfl⟩
    obtain ⟨c1, c2, c3, _, c5⟩ := slotFrame_checks n flags data extra hd
    unfold judgeSlot
    rw [c5, c1, c2, c3]
    have : bit flags.toNat 0 = false := by rw [bit, BitVec.testBit_toNat, hp]
    rw [this]
    have : (data.length + 1 == 1 || data.length + 1 == 2) = true := by
      match data, hd with
      | [], _ => rfl
      | [x], _ => rfl
    rw [this]; rfl

/-- A slot is not flagged where it is silent, or its frame has PRESENT set and no attention latched (R162). -/
theorem judgeSlot_notFlagged (n : SpotNo) (slot : List Byte) : judgeSlot n slot = .notFlagged ↔
    slot = [] ∨ ∃ flags extra, flags.getLsbD 0 = true
      ∧ slot = linkReplyFrame n .attentionPoll flags [0] ++ extra := by
  constructor
  · intro h
    unfold judgeSlot at h
    split at h
    · left; rename_i e; simpa using e
    split at h; · cases h
    rename_i hc
    have hc : slotFrameChecks n slot = true := by simpa using hc
    split at h; · cases h
    rename_i hh
    split at h; · cases h
    rename_i hl
    have hl : num1 slot 2 = 2 := by simpa using hl
    split at h
    · rename_i h0
      have h0 : num1 slot 4 = 0 := by simpa using h0
      right
      refine ⟨byteAt slot 3, slot.drop 6, ?_, ?_⟩
      · rw [← BitVec.testBit_toNat]
        rw [hl] at hh
        have hh : bit (num1 slot 3) 0 = true := by simpa using hh
        exact hh
      · have := slotFrame_of_checks n slot hc (.inr hl)
        rw [hl] at this
        have l6 : 6 ≤ slot.length := by
          simp only [slotFrameChecks, Bool.and_eq_true, decide_eq_true_eq] at hc
          have := hc.1.1.1; omega
        have hd : (slot.drop 4).take (2 - 1) = [0] := by
          match slot, l6, h0 with
          | a :: b :: c :: d :: x :: e :: rest, _, h0 =>
            simp
            exact Byte.eq_of_toNat h0
        rw [hd] at this
        exact this
    · cases h
  · rintro (rfl | ⟨flags, extra, hp, rfl⟩)
    · rfl
    · obtain ⟨c1, c2, c3, c4, c5⟩ := slotFrame_checks n flags [0] extra (by decide)
      unfold judgeSlot
      rw [c5, c1, c2, c3, c4]
      have : bit flags.toNat 0 = true := by rw [bit, BitVec.testBit_toNat, hp]
      rw [this]
      rfl

/-- A slot is flagged where it is neither (R162). -/
theorem judgeSlot_flagged (n : SpotNo) (slot : List Byte) : judgeSlot n slot = .flagged ↔
    judgeSlot n slot ≠ .notFlagged ∧ judgeSlot n slot ≠ .notInitialized := by
  cases judgeSlot n slot <;> simp

/-! ## A pending INITIALIZE (R149, R150) -/

/-- An INITIALIZE that is pending stays so, and a free link stays free. -/
structure KeepsInit (s t : State) : Prop where
  pending : ∀ m : SpotNo, s.link.hasPending (some m) .initStation = true → t.link.hasPending (some m) .initStation = true
  free : s.link.inFlight = none → t.link.inFlight = none

/-- An entry that joins leaves every pair that is pending. -/
theorem Link.hasPending_join {l : Link} {station : Option SpotNo} {kind : LinkKind} (e : LinkEntry)
    (h : l.hasPending station kind = true) : (l.join e).hasPending station kind = true := by
  by_cases x : e.station = station ∧ e.txn.kind = kind
  · have := Link.hasPending_join_self l e
    rwa [x.1, x.2] at this
  · rw [Link.hasPending_join_ne _ _ _ _ x]
    exact h

namespace KeepsInit

variable {s t u : State}

theorem refl (s : State) : KeepsInit s s := ⟨fun _ => id, id⟩

theorem trans (a : KeepsInit s t) (b : KeepsInit t u) : KeepsInit s u := ⟨fun m => b.pending m ∘ a.pending m, b.free ∘ a.free⟩

theorem ite {c : Prop} [Decidable c] (a : KeepsInit s t) (b : KeepsInit s u) : KeepsInit s (if c then t else u) := by
  split <;> assumption

/-- A change that leaves the pending list and the transaction in flight. -/
theorem of_same (entries : t.link.entries = s.link.entries) (flight : t.link.inFlight = s.link.inFlight) :
    KeepsInit s t := ⟨fun m => by unfold Link.hasPending; rw [entries]; exact id, by rw [flight]; exact id⟩

theorem join (s : State) (e : LinkEntry) : KeepsInit s (s.join e) :=
  ⟨fun _ => Link.hasPending_join e, fun h => by rw [← h]; exact Link.inFlight_join ..⟩

theorem request (s : State) (n : SpotNo) (t : Txn) : KeepsInit s (s.request n t) := ite (join ..) (refl _)

theorem queueInit (s : State) (n : SpotNo) : KeepsInit s (s.queueInit n) := ite (refl _) (join ..)

theorem requestClose (s : State) (n : SpotNo) : KeepsInit s (s.requestClose n) := by
  refine ite ⟨fun m h => ?_, fun h => ?_⟩ (refl _)
  · have joined := Link.hasPending_join (newEntry n .close) h
    show ((s.link.join (newEntry n .close)).withdraw n .valveOpen).hasPending (some m) .initStation = true
    unfold Link.withdraw Link.hasPending at *
    rw [List.any_eq_true] at *
    obtain ⟨e, he, hk⟩ := joined
    refine ⟨e, List.mem_filter.2 ⟨he, ?_⟩, hk⟩
    simp only [LinkEntry.isPair, Bool.and_eq_true, beq_iff_eq] at hk
    simp [LinkEntry.isPair, hk.2]
  · show ((s.link.join (newEntry n .close)).inFlight).map _ = none
    rw [Link.inFlight_join, h]
    rfl

theorem onSpot (s : State) (n : SpotNo) (f : SpotRecord → SpotRecord) : KeepsInit s (s.onSpot n f) := of_same rfl rfl

theorem setSpot (s : State) (n : SpotNo) (r : SpotRecord) : KeepsInit s (s.setSpot n r) := of_same rfl rfl

theorem setComp (s : State) (c : Compressor) : KeepsInit s (s.setComp c) := of_same rfl rfl

theorem onMeter (s : State) (n : SpotNo) (f : Meter → Meter) : KeepsInit s (s.onMeter n f) := of_same rfl rfl

theorem driveOpen (s : State) (n : SpotNo) (v : ValveSet) : KeepsInit s (s.driveOpen n v) :=
  ite (refl _) ((onSpot ..).trans (request ..))

theorem openValves (s : State) (n : SpotNo) (v : ValveSet) : KeepsInit s (s.openValves n v) :=
  (setSpot ..).trans (driveOpen ..)

theorem closeValves (s : State) (n : SpotNo) : KeepsInit s (s.closeValves n) :=
  ite (setSpot ..) ((setSpot ..).trans (requestClose ..))

theorem requestClosing (s : State) (n : SpotNo) : KeepsInit s (s.requestClosing n) :=
  ite (refl _) (ite ((onMeter ..).trans (onSpot ..)) ((onMeter ..).trans (request ..)))

theorem purgeRest (s : State) (n : SpotNo) : KeepsInit s (s.purgeRest n) := (closeValves ..).trans (requestClosing ..)

theorem beginTransfer (s : State) (n : SpotNo) : KeepsInit s (s.beginTransfer n) :=
  ((onSpot s n (·.toTransfer s.siding.config.window)).trans (onMeter ..)).trans (openValves ..)

theorem enterTransfer (s : State) (n : SpotNo) : KeepsInit s (s.enterTransfer n) :=
  ite ((beginTransfer ..).trans ((onSpot ..).trans ((setComp ..).trans (purgeRest ..)))) (beginTransfer ..)

theorem grant (s : State) (e : QueueEntry) (rest : List QueueEntry) : KeepsInit s (s.grant e rest) := by
  unfold State.grant
  split
  · exact (setComp ..).trans (enterTransfer ..)
  · exact (setComp ..).trans ((onSpot ..).trans (openValves ..))

theorem examineUpTo (bound : Nat) (s : State) : KeepsInit s (State.examineUpTo bound s) := by
  induction bound generalizing s with
  | zero => exact refl _
  | succ bound ih =>
    unfold State.examineUpTo
    split
    · exact refl _
    · split
      · exact refl _
      · split
        · exact (grant ..).trans (ih _)
        · exact ite (setComp ..) (refl _)

theorem giveUp (s : State) (n : SpotNo) : KeepsInit s (s.giveUp n) := ite ((setComp ..).trans (examineUpTo ..)) (setComp ..)

theorem trip (s : State) (n : SpotNo) (brought : List TripCause) : KeepsInit s (s.trip n brought) := by
  unfold State.trip
  split
  · exact refl _
  · exact ((onSpot ..).trans (giveUp ..)).trans (closeValves ..)

theorem takeCauses (s : State) (n : SpotNo) (brought : List TripCause) : KeepsInit s (s.takeCauses n brought) :=
  ite (trip ..) (ite (onSpot ..) (refl _))

theorem moveOnInputs (s : State) (n : SpotNo) : KeepsInit s (s.moveOnInputs n) := by
  unfold State.moveOnInputs
  split
  · exact ite ((onSpot ..).trans (takeCauses ..)) (refl _)
  · exact ite (refl _) (onSpot ..)
  · exact refl _

theorem takeStationEvent (s old : State) (n : SpotNo) (extra : List TripCause) :
    KeepsInit s (s.takeStationEvent old n extra none) := (takeCauses ..).trans (moveOnInputs ..)

theorem judgePoll (s : State) : KeepsInit s s.judgePoll := ite (join ..) (refl _)

end KeepsInit

/-! ## A slot with PRESENT clear (R156, R162) -/

namespace State

variable (s : State) (n : SpotNo)

/-- A slot with PRESENT clear changes its own station's record alone (R156, R162). -/
theorem station_pollNotInitialized (k : SpotNo) : (s.pollNotInitialized n).station k =
    if k = n then { s.station n with misses := 0, status := .unknown } else s.station k := by
  unfold pollNotInitialized
  rw [(Course.takeStationEvent ..).station, (Course.queueInit ..).station, onStation, station_setStation]

/-- It leaves an INITIALIZE of its station pending (R162). -/
theorem pending_pollNotInitialized : (s.pollNotInitialized n).link.hasPending (some n) .initStation = true := by
  unfold pollNotInitialized
  refine (KeepsInit.takeStationEvent ..).pending n ?_
  unfold queueInit
  rw [if_neg]
  · exact Link.hasPending_join_self _ (newEntry n (.initStation false))
  · simp [onStation]

/-- It leaves every INITIALIZE that was pending. -/
theorem keepsInit_pollNotInitialized : KeepsInit s (s.pollNotInitialized n) :=
  ((KeepsInit.of_same rfl rfl : KeepsInit s (s.onStation n fun t => { t with misses := 0, status := .unknown })).trans
    (.queueInit ..)).trans (.takeStationEvent ..)

/-- Apart from the station records it is the course of a spot. -/
theorem course_pollNotInitialized : Course { s with link := { s.link with
    stations := (s.pollNotInitialized n).link.stations } } (s.pollNotInitialized n) := by
  let heard := s.onStation n fun t => { t with misses := 0, status := .unknown }
  have c : Course heard (s.pollNotInitialized n) := (Course.queueInit heard n).trans (.takeStationEvent ..)
  rw [show (s.pollNotInitialized n).link.stations = heard.link.stations from c.link.stations]
  exact c

/-- Adding no cause leaves a trip record in number order as it is (R115). -/
theorem addCauses_nil {r : SpotRecord} (h : r.TripInOrder) : r.addCauses [] = r := by
  have same : r.trip.map (fun t => { t with causes := causeUnion t.causes [] }) = r.trip := by
    cases ht : r.trip with
    | none => rfl
    | some t =>
      have : causeUnion t.causes [] = t.causes := by
        conv_rhs => rw [h t ht]
        rw [causeUnion_eq]
        simp
      rw [Option.map_some, this]
  unfold SpotRecord.addCauses
  rw [same]

/-- A spot that takes no cause, its trip record in number order, stays as it is (R113). -/
theorem takeCauses_nil (h : (s.spot n).TripInOrder) : s.takeCauses n [] = s := by
  unfold takeCauses
  split
  · rfl
  · split
    · rw [onSpot_eq, addCauses_nil h, setSpot_spot]
    · rfl

/-- The inputs move a spot from ASSIGNED and from COMPLETE alone, and there only as R6 and R25 state. -/
theorem moveOnInputs_still
    (assigned : (s.spot n).state = .assigned → ((s.station n).inputs.arms && (s.station n).inputs.bond) = false)
    (complete : (s.spot n).state = .complete → (s.station n).inputs.arms = true) : s.moveOnInputs n = s := by
  unfold moveOnInputs
  split
  · rename_i h
    rw [assigned h]
    rfl
  · rename_i h
    rw [complete h]
    rfl
  · rfl

/-- It moves no spot where the spot's inputs move it neither from ASSIGNED nor from COMPLETE, and its trip record, if any,
stands in number order. -/
theorem pollNotInitialized_still (trip : (s.spot n).TripInOrder)
    (assigned : (s.spot n).state = .assigned → ((s.station n).inputs.arms && (s.station n).inputs.bond) = false)
    (complete : (s.spot n).state = .complete → (s.station n).inputs.arms = true) :
    (s.pollNotInitialized n).comp = s.comp
      ∧ ∀ k, (s.pollNotInitialized n).spot k = s.spot k ∧ (s.pollNotInitialized n).meter k = s.meter k := by
  unfold pollNotInitialized
  set b := (s.onStation n fun t => { t with misses := 0, status := .unknown }).queueInit n with hb
  have station : b.station n = { s.station n with misses := 0, status := .unknown } := by
    rw [hb, (Course.queueInit ..).station]
    simp [onStation]
  have spot : b.spot n = s.spot n := by
    rw [hb]
    unfold queueInit
    split <;> rfl
  have siding : b.siding = s.siding := (Course.queueInit ..).siding
  have risen : b.risen s n = [] := by
    apply risen_none
    intro c
    cases c <;> simp [levelCondition, station, siding]
  have still : b.takeStationEvent s n [] none = b := by
    show (b.takeCauses n (causeUnion (b.risen s n) [])).moveOnInputs n = b
    rw [risen, show causeUnion [] [] = [] from rfl, takeCauses_nil _ _ (by rwa [spot])]
    refine moveOnInputs_still _ _ ?_ ?_ <;> rw [spot, station] <;> assumption
  rw [still, hb]
  unfold queueInit
  split <;> exact ⟨rfl, fun _ => ⟨rfl, rfl⟩⟩

end State

end Sys2Proof.Machine
end

