-- ==== Sys2Proof/Laws/Shares.lean ====
section
/-! SUPPORT. The shared operations keep `SharesFollowStates`: states, shares, queue entries and timers go together. -/

namespace Sys2Proof.Machine

/-! ## What `Fits` looks at -/

/-- The fields of a spot record that `Fits` looks at are the same, or a timer of them has stopped. -/
structure SpotRecord.SameCourse (r r' : SpotRecord) : Prop where
  state : r'.state = r.state
  limit : r'.limitRunning = r.limitRunning
  window : r'.window.isRunning = true → r.window.isRunning = true
  strip : r'.strip.isRunning = true → r.strip.isRunning = true
  purge : r'.purge.isRunning = true → r.purge.isRunning = true
  settle : r'.settle.isRunning = true → r.settle.isRunning = true
  expired : r'.purge.isRunning = true → r'.purgeExpired = r.purgeExpired

namespace SpotRecord

variable {r r' : SpotRecord} {n : SpotNo} {c c' : Compressor} {u u' : TicketUnit}

theorem SameCourse.refl (r : SpotRecord) : SameCourse r r := ⟨rfl, rfl, id, id, id, id, fun _ => rfl⟩

theorem SameCourse.trans {r'' : SpotRecord} (a : SameCourse r r') (b : SameCourse r' r'') : SameCourse r r'' :=
  ⟨b.state.trans a.state, b.limit.trans a.limit, a.window ∘ b.window, a.strip ∘ b.strip, a.purge ∘ b.purge,
   a.settle ∘ b.settle, fun m => (b.expired m).trans (a.expired (b.purge m))⟩

theorem SameCourse.startClosing (r : SpotRecord) : SameCourse r r.startClosing := ⟨rfl, rfl, id, id, id, id, fun _ => rfl⟩

theorem SameCourse.finishClosing (r : SpotRecord) : SameCourse r r.finishClosing := ⟨rfl, rfl, id, id, id, id, fun _ => rfl⟩

theorem SameCourse.startOpening (r : SpotRecord) (v : ValveSet) : SameCourse r (r.startOpening v) :=
  ⟨rfl, rfl, id, id, id, id, fun _ => rfl⟩

theorem SameCourse.openDone (r : SpotRecord) (v : ValveSet) : SameCourse r (r.openDone v) :=
  ⟨rfl, rfl, id, id, id, id, fun _ => rfl⟩

theorem SameCourse.addCauses (r : SpotRecord) (l : List TripCause) : SameCourse r (r.addCauses l) :=
  ⟨rfl, rfl, id, id, id, id, fun _ => rfl⟩

theorem SameCourse.openRecord (r : SpotRecord) (v : ValveSet) : SameCourse r (State.openRecord r v) := by
  unfold State.openRecord
  dsimp only
  split <;> exact ⟨rfl, rfl, id, id, id, id, fun _ => rfl⟩

theorem SameCourse.setValve (r : SpotRecord) (side : ValveSide) (x : ValveCommand) : SameCourse r (r.setValve side x) := by
  cases side <;> exact ⟨rfl, rfl, id, id, id, id, fun _ => rfl⟩

theorem SameCourse.setTravel (r : SpotRecord) (side : ValveSide) (x : Timer) : SameCourse r (r.setTravel side x) := by
  cases side <;> exact ⟨rfl, rfl, id, id, id, id, fun _ => rfl⟩

theorem SameCourse.purged (s : State) (n : SpotNo) (r : SpotRecord) : SameCourse r (s.purgedRecord n r) := by
  unfold State.purgedRecord
  split <;> exact ⟨rfl, rfl, id, id, id, id, fun _ => rfl⟩

theorem Fits.congr (h : r.Fits n c u) (e : SameCourse r r') : r'.Fits n c u where
  pushEntry := by rw [e.state]; exact h.pushEntry
  pullEntry := by rw [e.state]; exact h.pullEntry
  pushShare := by rw [e.state]; exact h.pushShare
  pullShare := by rw [e.state]; exact h.pullShare
  limit := by rw [e.state, e.limit]; exact h.limit
  window := by rw [e.state]; exact h.window ∘ e.window
  strip := by rw [e.state]; exact h.strip ∘ e.strip
  purge := by rw [e.state]; exact h.purge ∘ e.purge
  notExpired := fun m => (e.expired m).trans (h.notExpired (e.purge m))
  settle := by rw [e.state]; exact h.settle ∘ e.settle
  waiting := by rw [e.state]; exact h.waiting

/-- A spot fits another compressor record in which its claims are the same. -/
theorem Fits.claims (h : r.Fits n c u) (push : ⟨n, .push⟩ ∈ c'.queue ↔ ⟨n, .push⟩ ∈ c.queue)
    (pull : ⟨n, .pull⟩ ∈ c'.queue ↔ ⟨n, .pull⟩ ∈ c.queue) (holder : n ∈ c'.pushHolders ↔ n ∈ c.pushHolders)
    (puller : c'.pullHolder = some n ↔ c.pullHolder = some n) : r.Fits n c' u :=
  { h with
    pushEntry := push.trans h.pushEntry
    pullEntry := pull.trans h.pullEntry
    pushShare := holder.trans h.pushShare
    pullShare := puller.trans h.pullShare }

/-- A record with no claim on the compressor and no timer that its state does not have. -/
structure Idle (r : SpotRecord) : Prop where
  startWait : r.state ≠ .startWait
  stripWait : r.state ≠ .stripWait
  transfer : r.state ≠ .transfer
  strip : r.state ≠ .strip
  limit : r.limitRunning = false
  window : r.window.isRunning = false
  stripTimer : r.strip.isRunning = false
  purge : r.purge.isRunning = true → r.state = .purge
  notExpired : r.purge.isRunning = true → r.purgeExpired = false
  settle : r.settle.isRunning = true → r.state = .connected

/-- A record without claims fits a compressor in which its spot has none. -/
theorem Idle.fits (h : r.Idle) (queue : ∀ e ∈ c.queue, e.spot ≠ n) (push : n ∉ c.pushHolders)
    (pull : c.pullHolder ≠ some n) (wait : n ∈ u.wait.map WaitEntry.spot → r.state = .ticketWait) :
    r.Fits n c u where
  pushEntry := ⟨fun m => absurd rfl (queue _ m), fun m => absurd m h.startWait⟩
  pullEntry := ⟨fun m => absurd rfl (queue _ m), fun m => absurd m h.stripWait⟩
  pushShare := ⟨fun m => absurd m push, fun m => absurd m h.transfer⟩
  pullShare := ⟨fun m => absurd m pull, fun m => absurd m h.strip⟩
  limit := ⟨fun m => absurd (h.limit.symm.trans m) Bool.false_ne_true, fun m => absurd m h.transfer⟩
  window := fun m => by rw [h.window] at m; cases m
  strip := fun m => by rw [h.stripTimer] at m; cases m
  purge := h.purge
  notExpired := h.notExpired
  settle := h.settle
  waiting := wait

/-- A spot that fits and whose state has no claim is without claims. -/
theorem Fits.idle (h : r.Fits n c u) (a : r.state ≠ .startWait) (b : r.state ≠ .stripWait) (d : r.state ≠ .transfer)
    (e : r.state ≠ .strip) : r.Idle where
  startWait := a
  stripWait := b
  transfer := d
  strip := e
  limit := by
    rcases hl : r.limitRunning with _ | _
    · rfl
    · exact absurd (h.limit.mp hl) d
  window := by
    rcases hw : r.window.isRunning with _ | _
    · rfl
    · have := h.window hw
      rcases hs : r.state with _ | _ | _ | _ | _ | _ | _ | _ | _ | _ | _ | _ | _ <;>
        simp_all [SpotState.moving]
  stripTimer := by
    rcases hw : r.strip.isRunning with _ | _
    · rfl
    · exact absurd (h.strip hw) e
  purge := h.purge
  notExpired := h.notExpired
  settle := h.settle

end SpotRecord

/-! ## The compressor by itself -/

namespace Compressor

variable {c : Compressor}

theorem Sound.no_pull (h : c.Sound) (m : c.mode ≠ .pull) : c.pullHolder = none := by
  by_contra x
  exact m (h.pullMode.mpr x)

theorem Sound.no_push (h : c.Sound) (m : c.mode ≠ .push) : c.pushHolders = [] := by
  by_contra x
  exact m (h.pushMode.mpr x)

theorem Sound.no_target (h : c.Sound) (m : c.mode ≠ .changeover) : c.target = none := by
  by_contra x
  exact m (h.target.mpr x)

theorem Sound.no_timer (h : c.Sound) (m : c.mode ≠ .changeover) : c.changeover.isRunning = false := by
  rcases x : c.changeover.isRunning with _ | _
  · rfl
  · exact absurd (h.timer.mpr x) m

theorem holds_iff (n : SpotNo) : c.holds n = true ↔ n ∈ c.pushHolders ∨ c.pullHolder = some n := by
  simp [holds]

/-- A spot without a share gives up none: the holders stay. -/
theorem filter_of_not_mem (n : SpotNo) (h : n ∉ c.pushHolders) : c.pushHolders.filter (· != n) = c.pushHolders := by
  rw [List.filter_eq_self]
  intro a m
  simp only [bne_iff_ne, ne_eq]
  rintro rfl
  exact h m

theorem mem_queue_drop (n : SpotNo) (e : QueueEntry) : e ∈ (c.drop n).queue ↔ e ∈ c.queue ∧ e.spot ≠ n := by
  simp

theorem mem_pushHolders_drop (n k : SpotNo) : k ∈ (c.drop n).pushHolders ↔ k ∈ c.pushHolders ∧ k ≠ n := by
  simp

theorem pullHolder_drop_iff (n k : SpotNo) : (c.drop n).pullHolder = some k ↔ c.pullHolder = some k ∧ k ≠ n := by
  rw [pullHolder_drop]
  by_cases h : c.pullHolder = some n
  · simp only [h, beq_self_eq_true, if_true, Option.some.injEq]
    constructor
    · intro x; cases x
    · rintro ⟨rfl, x⟩; exact absurd rfl x
  · have : (c.pullHolder == some n) = false := by simpa using h
    rw [this]
    simp only [Bool.false_eq_true, if_false]
    constructor
    · intro x
      refine ⟨x, ?_⟩
      rintro rfl
      exact h x
    · exact fun x => x.1

/-- Giving up keeps the compressor record sound (R99, R100). -/
theorem Sound.drop (h : c.Sound) (n : SpotNo) : (c.drop n).Sound := by
  have few : (c.drop n).pushHolders.length ≤ 4 := by
    rw [pushHolders_drop]; exact (List.length_filter_le ..).trans h.fewHolders
  have once : (c.drop n).pushHolders.Nodup := by rw [pushHolders_drop]; exact h.holdersOnce.filter _
  have entries : ((c.drop n).queue.map QueueEntry.spot).Nodup := by
    rw [queue_drop]; exact h.entriesOnce.sublist (List.filter_sublist.map _)
  by_cases hh : c.holds n = true
  · rcases (holds_iff n).mp hh with hp | hp
    · -- a push holder: the mode is PUSH
      have mode : c.mode = .push := h.pushMode.mpr (List.ne_nil_of_mem hp)
      have pull : c.pullHolder = none := h.notBoth (List.ne_nil_of_mem hp)
      have pull' : (c.drop n).pullHolder = none := by rw [pullHolder_drop, pull]; rfl
      have mode' : (c.drop n).mode = if (c.pushHolders.filter (· != n)).isEmpty then .idle else .push := by
        rw [mode_drop, hh, pull', mode]; simp
      have target : c.target = none := h.no_target (by rw [mode]; decide)
      have timer : c.changeover.isRunning = false := h.no_timer (by rw [mode]; decide)
      constructor
      · exact few
      · exact once
      · exact entries
      · exact fun _ => pull'
      · rw [mode', pushHolders_drop]; cases hl : c.pushHolders.filter (· != n) <;> simp
      · rw [mode', pull']; split <;> simp
      · rw [mode', target_drop, target]; split <;> simp
      · rw [mode', changeover_drop, timer]; split <;> simp
      · intro _; rw [position_drop]; exact h.pushPosition mode
      · rw [mode']; split <;> simp
    · have mode : c.mode = .pull := h.pullMode.mpr (by rw [hp]; simp)
      have push : c.pushHolders = [] := h.no_push (by rw [mode]; decide)
      have pull' : (c.drop n).pullHolder = none := by rw [pullHolder_drop, hp]; simp
      have push' : (c.drop n).pushHolders = [] := by rw [pushHolders_drop, push]; rfl
      have mode' : (c.drop n).mode = .idle := by rw [mode_drop, hh, pull', push]; simp
      have target : c.target = none := h.no_target (by rw [mode]; decide)
      have timer : c.changeover.isRunning = false := h.no_timer (by rw [mode]; decide)
      constructor
      · exact few
      · exact once
      · exact entries
      · exact fun _ => pull'
      · rw [mode', push']; simp
      · rw [mode', pull']; simp
      · rw [mode', target_drop, target]; simp
      · rw [mode', changeover_drop, timer]; simp
      · rw [mode']; simp
      · rw [mode']; simp
  · have hp : n ∉ c.pushHolders := fun m => hh ((holds_iff n).mpr (.inl m))
    have hq : c.pullHolder ≠ some n := fun m => hh ((holds_iff n).mpr (.inr m))
    have push' : (c.drop n).pushHolders = c.pushHolders := by rw [pushHolders_drop]; exact filter_of_not_mem n hp
    have pull' : (c.drop n).pullHolder = c.pullHolder := by
      rw [pullHolder_drop]; simp [hq]
    have mode' : (c.drop n).mode = c.mode := by rw [mode_drop]; simp [hh]
    constructor
    · exact few
    · exact once
    · exact entries
    · rw [push', pull']; exact h.notBoth
    · rw [mode', push']; exact h.pushMode
    · rw [mode', pull']; exact h.pullMode
    · rw [mode', target_drop]; exact h.target
    · rw [mode', changeover_drop]; exact h.timer
    · rw [mode', position_drop]; exact h.pushPosition
    · rw [mode', position_drop]; exact h.pullPosition

end Compressor

/-! ## The whole state -/

/-- The invariant for every spot but those of a list, which have no claim on the compressor. -/
structure SharesOn (out : List SpotNo) (s : State) : Prop where
  comp : s.comp.Sound
  spots : ∀ n, n ∉ out → (s.spot n).Fits n s.comp s.tickets
  noEntry : ∀ n ∈ out, ∀ e ∈ s.comp.queue, e.spot ≠ n
  noPush : ∀ n ∈ out, n ∉ s.comp.pushHolders
  noPull : ∀ n ∈ out, s.comp.pullHolder ≠ some n
  waitOnce : (s.tickets.wait.map WaitEntry.spot).Nodup

theorem SharesFollowStates.on {s : State} (h : SharesFollowStates s) : SharesOn [] s :=
  ⟨h.comp, fun n _ => h.spots n, by simp, by simp, by simp, h.waitOnce⟩

namespace SharesOn

variable {s t : State} {out : List SpotNo}

theorem all (h : SharesOn [] s) : SharesFollowStates s := ⟨h.comp, fun n => h.spots n (by simp), h.waitOnce⟩

/-- An operation that leaves the compressor, the tickets and what `Fits` looks at keeps the invariant. -/
theorem of_same (h : SharesOn out s) (comp : t.comp = s.comp) (tickets : t.tickets = s.tickets)
    (spots : ∀ k, (s.spot k).SameCourse (t.spot k)) : SharesOn out t where
  comp := by rw [comp]; exact h.comp
  spots k hk := by rw [comp, tickets]; exact (h.spots k hk).congr (spots k)
  noEntry := by rw [comp]; exact h.noEntry
  noPush := by rw [comp]; exact h.noPush
  noPull := by rw [comp]; exact h.noPull
  waitOnce := by rw [tickets]; exact h.waitOnce

/-- The same, where one spot's record is all that is written. -/
theorem setSpot (h : SharesOn out s) (n : SpotNo) (r : SpotRecord) (e : (s.spot n).SameCourse r) :
    SharesOn out (s.setSpot n r) :=
  h.of_same rfl rfl fun k => by
    rw [State.spot_setSpot]
    split
    · subst_vars; exact e
    · exact .refl _

theorem onSpot (h : SharesOn out s) (n : SpotNo) (f : SpotRecord → SpotRecord)
    (e : (s.spot n).SameCourse (f (s.spot n))) : SharesOn out (s.onSpot n f) := h.setSpot n _ e

theorem setMeter (h : SharesOn out s) (n : SpotNo) (m : Meter) : SharesOn out (s.setMeter n m) :=
  h.of_same rfl rfl fun _ => .refl _

theorem setStation (h : SharesOn out s) (n : SpotNo) (r : Station) : SharesOn out (s.setStation n r) :=
  h.of_same rfl rfl fun _ => .refl _

theorem setLink (h : SharesOn out s) (l : Link) : SharesOn out (s.setLink l) := h.of_same rfl rfl fun _ => .refl _

theorem setLine (h : SharesOn out s) (l : LineUnit) : SharesOn out (s.setLine l) := h.of_same rfl rfl fun _ => .refl _

theorem setManifest (h : SharesOn out s) (l : List CarRecord) : SharesOn out (s.setManifest l) :=
  h.of_same rfl rfl fun _ => .refl _

theorem setSiding (h : SharesOn out s) (d : Siding) : SharesOn out (s.setSiding d) := h.of_same rfl rfl fun _ => .refl _

theorem setGrade (h : SharesOn out s) (g : GradeNo) (r : Grade) : SharesOn out (s.setGrade g r) :=
  h.of_same rfl rfl fun _ => .refl _

theorem setProofRecord (h : SharesOn out s) (v : ValveIndex) (p : ProofRecord) : SharesOn out (s.setProofRecord v p) :=
  h.of_same rfl rfl fun _ => .refl _

theorem setStroke (h : SharesOn out s) (k : Option Stroke) : SharesOn out (s.setStroke k) :=
  h.of_same rfl rfl fun _ => .refl _

theorem request (h : SharesOn out s) (n : SpotNo) (x : Txn) : SharesOn out (s.request n x) :=
  h.of_same (by simp) (Course.request ..).tickets fun k => by simp [SpotRecord.SameCourse.refl]

theorem queueInit (h : SharesOn out s) (n : SpotNo) : SharesOn out (s.queueInit n) :=
  h.of_same (by simp) (Course.queueInit ..).tickets fun k => by simp [SpotRecord.SameCourse.refl]

theorem requestClose (h : SharesOn out s) (n : SpotNo) : SharesOn out (s.requestClose n) :=
  h.of_same (by simp) (Course.requestClose ..).tickets fun k => by simp [SpotRecord.SameCourse.refl]

theorem judgePoll (h : SharesOn out s) : SharesOn out s.judgePoll :=
  h.of_same (by simp) (Course.judgePoll _).tickets fun k => by simp [SpotRecord.SameCourse.refl]

theorem judgePollIf (h : SharesOn out s) (b : Bool) : SharesOn out (s.judgePollIf b) :=
  h.of_same (by simp) (Course.judgePollIf ..).tickets fun k => by simp [SpotRecord.SameCourse.refl]

theorem driveOpen (h : SharesOn out s) (n : SpotNo) (v : ValveSet) : SharesOn out (s.driveOpen n v) :=
  h.of_same (by simp) (Course.driveOpen ..).tickets fun k => by
    rw [State.spot_driveOpen]
    split
    · subst_vars
      split
      · exact .refl _
      · exact .startOpening ..
    · exact .refl _

theorem openValves (h : SharesOn out s) (n : SpotNo) (v : ValveSet) : SharesOn out (s.openValves n v) :=
  h.of_same (by simp) (Course.openValves ..).tickets fun k => by
    rw [State.spot_openValves]
    split
    · subst_vars; exact .openRecord ..
    · exact .refl _

theorem closeValves (h : SharesOn out s) (n : SpotNo) : SharesOn out (s.closeValves n) :=
  h.of_same (by simp) (Course.closeValves ..).tickets fun k => by
    rw [State.spot_closeValves]
    split
    · subst_vars; exact .startClosing _
    · exact .refl _

theorem closeDone (h : SharesOn out s) (n : SpotNo) : SharesOn out (s.closeDone n) :=
  (h.onSpot n (fun r => { r.finishClosing with openDeferred := .none })
    ((SpotRecord.SameCourse.finishClosing _).trans ⟨rfl, rfl, id, id, id, id, fun _ => rfl⟩)).driveOpen ..

theorem initDone (h : SharesOn out s) (n : SpotNo) : SharesOn out (s.initDone n) :=
  (h.onSpot n (fun r => { r.finishClosing with openDeferred := .none })
    ((SpotRecord.SameCourse.finishClosing _).trans ⟨rfl, rfl, id, id, id, id, fun _ => rfl⟩)).driveOpen ..

theorem purgeRest (h : SharesOn out s) (n : SpotNo) : SharesOn out (s.purgeRest n) :=
  h.of_same (by simp) (Course.purgeRest ..).tickets fun k => by
    rw [State.spot_purgeRest]
    split
    · subst_vars; exact .purged ..
    · exact .refl _

/-- A spot that gives up what it has of the compressor is left out; its record may then be any. -/
theorem leave (h : SharesOn out s) (n : SpotNo) (r : SpotRecord) :
    SharesOn (n :: out) ((s.setSpot n r).setComp (s.comp.drop n)) where
  comp := h.comp.drop n
  spots k hk := by
    have e : k ≠ n := fun e => hk (e ▸ List.mem_cons_self)
    rw [State.spot_setComp, State.spot_setSpot, if_neg e]
    refine (h.spots k fun m => hk (List.mem_cons_of_mem _ m)).claims ?_ ?_ ?_ ?_
    · exact (Compressor.mem_queue_drop ..).trans ⟨fun m => m.1, fun m => ⟨m, e⟩⟩
    · exact (Compressor.mem_queue_drop ..).trans ⟨fun m => m.1, fun m => ⟨m, e⟩⟩
    · exact (Compressor.mem_pushHolders_drop ..).trans ⟨fun m => m.1, fun m => ⟨m, e⟩⟩
    · exact (Compressor.pullHolder_drop_iff ..).trans ⟨fun m => m.1, fun m => ⟨m, e⟩⟩
  noEntry k hk e m := by
    have m' := (Compressor.mem_queue_drop ..).mp m
    rcases List.mem_cons.mp hk with rfl | hk
    · exact m'.2
    · exact h.noEntry k hk e m'.1
  noPush k hk m := by
    have m' := (Compressor.mem_pushHolders_drop ..).mp m
    rcases List.mem_cons.mp hk with rfl | hk
    · exact m'.2 rfl
    · exact h.noPush k hk m'.1
  noPull k hk m := by
    have m' := (Compressor.pullHolder_drop_iff ..).mp m
    rcases List.mem_cons.mp hk with rfl | hk
    · exact m'.2 rfl
    · exact h.noPull k hk m'.1
  waitOnce := h.waitOnce

/-- A spot left out whose record has no claim comes in again. -/
theorem comeBack {n : SpotNo} (h : SharesOn [n] s) (idle : (s.spot n).Idle)
    (wait : n ∈ s.tickets.wait.map WaitEntry.spot → (s.spot n).state = .ticketWait) : SharesFollowStates s where
  comp := h.comp
  spots k := by
    by_cases e : k = n
    · subst e
      exact idle.fits (h.noEntry k (by simp)) (h.noPush k (by simp)) (h.noPull k (by simp)) wait
    · exact h.spots k (by simpa using e)
  waitOnce := h.waitOnce

end SharesOn

/-! ### Grants -/

/-- The holders after a push grant are still few: the sorted list of the old ones and the new one. -/
theorem grant_holders (l : List SpotNo) (n : SpotNo) (few : l.length < 4) :
    (allSpots.filter fun k => k == n || l.contains k).length ≤ 4 := by
  have sub : (allSpots.filter fun k => k == n || l.contains k) ⊆ n :: l := by
    intro k hk
    simp only [List.mem_filter, Bool.or_eq_true, beq_iff_eq, List.contains_iff_mem] at hk
    rcases hk.2 with e | m
    · exact e ▸ List.mem_cons_self
    · exact List.mem_cons_of_mem _ m
  have once : (allSpots.filter fun k => k == n || l.contains k).Nodup :=
    (show allSpots.Nodup by decide).filter _
  have := (List.subperm_of_subset once sub).length_le
  simp only [List.length_cons] at this
  omega

theorem mem_allSpots (n : SpotNo) : n ∈ allSpots := by revert n; decide

theorem mem_grant_holders (l : List SpotNo) (n k : SpotNo) :
    k ∈ (allSpots.filter fun k => k == n || l.contains k) ↔ k = n ∨ k ∈ l := by
  simp [mem_allSpots]

/-- The compressor record after a push grant (R94, R98). -/
theorem sound_grant_push {c : Compressor} {e : QueueEntry} {rest : List QueueEntry} (h : c.Sound)
    (hq : c.queue = e :: rest) (kind : e.kind = .push) (g : c.grantable .push = true) (spacing : Nat) :
    (c.grant e rest spacing).Sound := by
  simp only [Compressor.grantable, Bool.and_eq_true, Bool.or_eq_true, beq_iff_eq, decide_eq_true_eq] at g
  obtain ⟨⟨⟨pos, mode⟩, few⟩, -⟩ := g
  have notPull : c.mode ≠ .pull := by rcases mode with m | m <;> rw [m] <;> decide
  have notOver : c.mode ≠ .changeover := by rcases mode with m | m <;> rw [m] <;> decide
  have pull := h.no_pull notPull
  have target := h.no_target notOver
  have timer := h.no_timer notOver
  have entries : (rest.map QueueEntry.spot).Nodup := by
    have := h.entriesOnce
    rw [hq, List.map_cons, List.nodup_cons] at this
    exact this.2
  have mem : e.spot ∈ (allSpots.filter fun k => k == e.spot || c.pushHolders.contains k) :=
    (mem_grant_holders _ _ _).mpr (.inl rfl)
  simp only [Compressor.grant, kind]
  constructor
  · exact grant_holders _ _ few
  · exact List.Nodup.filter (fun k => k == e.spot || c.pushHolders.contains k) (by decide : allSpots.Nodup)
  · exact entries
  · exact fun _ => pull
  · simpa using List.ne_nil_of_mem mem
  · simp [pull]
  · simp [target]
  · simp [timer]
  · exact fun _ => pos
  · simp

/-- The compressor record after a pull grant (R95, R98). -/
theorem sound_grant_pull {c : Compressor} {e : QueueEntry} {rest : List QueueEntry} (h : c.Sound)
    (hq : c.queue = e :: rest) (kind : e.kind = .pull) (g : c.grantable .pull = true) (spacing : Nat) :
    (c.grant e rest spacing).Sound := by
  simp only [Compressor.grantable, Bool.and_eq_true, beq_iff_eq] at g
  obtain ⟨pos, mode⟩ := g
  have push := h.no_push (by rw [mode]; decide)
  have target := h.no_target (by rw [mode]; decide)
  have timer := h.no_timer (by rw [mode]; decide)
  have entries : (rest.map QueueEntry.spot).Nodup := by
    have := h.entriesOnce
    rw [hq, List.map_cons, List.nodup_cons] at this
    exact this.2
  simp only [Compressor.grant, kind]
  constructor
  · exact h.fewHolders
  · exact h.holdersOnce
  · exact entries
  · simp [push]
  · simp [push]
  · simp
  · simp [target]
  · simp [timer]
  · simp
  · exact fun _ => pos

/-- A changeover that begins (R96). -/
theorem sound_beginChangeover {c : Compressor} (h : c.Sound) (mode : c.mode = .idle) (target : Duty) (time : Nat) :
    (c.beginChangeover target time).Sound := by
  have push := h.no_push (by rw [mode]; decide)
  have pull := h.no_pull (by rw [mode]; decide)
  constructor <;> simp [Compressor.beginChangeover, push, pull, h.entriesOnce, Timer.isRunning, Timer.seconds]

/-- A record in PURGE has no claim (R22). -/
theorem toPurge_idle {r : SpotRecord} (reason : Option EndReason) (settle : r.settle.isRunning = false) :
    (r.toPurge reason).Idle := by
  constructor <;> first | rfl | simp [SpotRecord.toPurge, SpotRecord.stopMoving]
  exact settle

/-- Entry to TRANSFER of a spot that holds the push share just granted to it: the invariant holds for every other
spot, and the record of this one is that of START_WAIT (R12, R16). -/
theorem enterTransfer_shares {out : List SpotNo} {s : State} {n : SpotNo} (comp : s.comp.Sound)
    (spots : ∀ k, k ∉ out → k ≠ n → (s.spot k).Fits k s.comp s.tickets)
    (noEntry : ∀ k ∈ n :: out, ∀ e ∈ s.comp.queue, e.spot ≠ k) (noPush : ∀ k ∈ out, k ∉ s.comp.pushHolders)
    (holds : n ∈ s.comp.pushHolders) (noPull : ∀ k ∈ out, s.comp.pullHolder ≠ some k)
    (waitOnce : (s.tickets.wait.map WaitEntry.spot).Nodup) (noWait : n ∉ s.tickets.wait.map WaitEntry.spot)
    (strip : (s.spot n).strip.isRunning = false) (purge : (s.spot n).purge.isRunning = false)
    (settle : (s.spot n).settle.isRunning = false) : SharesOn out (s.enterTransfer n) := by
  have start : SharesOn out (s.onSpot n (·.toTransfer s.siding.config.window)) := by
    refine ⟨comp, fun k hk => ?_, fun k hk => noEntry k (List.mem_cons_of_mem _ hk), noPush, noPull, waitOnce⟩
    rw [State.onSpot_eq, State.spot_setSpot]
    by_cases e : k = n
    · subst e
      rw [if_pos rfl]
      have no := noEntry k List.mem_cons_self
      have pull : s.comp.pullHolder = none := comp.notBoth (List.ne_nil_of_mem holds)
      constructor
      · exact ⟨fun m => absurd rfl (no _ m), fun m => nomatch m⟩
      · exact ⟨fun m => absurd rfl (no _ m), fun m => nomatch m⟩
      · exact ⟨fun _ => rfl, fun _ => holds⟩
      · simp [pull, SpotRecord.toTransfer]
      · simp [SpotRecord.toTransfer]
      · simp [SpotState.moving, SpotRecord.toTransfer]
      · simp [strip, SpotRecord.toTransfer]
      · simp [purge, SpotRecord.toTransfer]
      · simp [purge, SpotRecord.toTransfer]
      · simp [settle, SpotRecord.toTransfer]
      · exact fun m => absurd m noWait
    · rw [if_neg e]
      exact spots k hk e
  have opened : SharesOn out (s.beginTransfer n) := (start.setMeter n _).openValves n .both
  unfold State.enterTransfer
  dsimp only
  split
  · refine SharesOn.purgeRest ?_ n
    have left := opened.leave n (((s.beginTransfer n).spot n).toPurge (some .timeLimit))
    refine ⟨left.comp, fun k hk => ?_, fun k hk => left.noEntry k (List.mem_cons_of_mem _ hk),
      fun k hk => left.noPush k (List.mem_cons_of_mem _ hk), fun k hk => left.noPull k (List.mem_cons_of_mem _ hk),
      left.waitOnce⟩
    by_cases e : k = n
    · subst e
      rw [State.spot_setComp, State.onSpot_eq, State.spot_setSpot_self]
      refine (toPurge_idle _ ?_).fits (left.noEntry k List.mem_cons_self) (left.noPush k List.mem_cons_self)
        (left.noPull k List.mem_cons_self) ?_
      · refine Bool.eq_false_iff.mpr fun m => ?_
        rw [State.spot_beginTransfer, if_pos rfl] at m
        have := (SpotRecord.SameCourse.openRecord _ _).settle m
        exact absurd (settle.symm.trans this) Bool.false_ne_true
      · intro m
        refine absurd ?_ noWait
        simpa [(Course.beginTransfer s k).tickets] using m
    · exact left.spots k (by simp [e, hk])
  · exact opened

/-- A grant of the head entry keeps the invariant (R98). -/
theorem SharesOn.grant {out : List SpotNo} {s : State} (h : SharesOn out s) {e : QueueEntry} {rest : List QueueEntry}
    (hq : s.comp.queue = e :: rest) (g : s.comp.grantable e.kind = true) : SharesOn out (s.grant e rest) := by
  have mem : e ∈ s.comp.queue := by rw [hq]; exact List.mem_cons_self
  have hn : e.spot ∉ out := fun m => h.noEntry _ m e mem rfl
  have fits := h.spots _ hn
  have once : ∀ q ∈ rest, q.spot ≠ e.spot := by
    intro q hm same
    have := h.comp.entriesOnce
    rw [hq, List.map_cons, List.nodup_cons] at this
    exact this.1 (List.mem_map.mpr ⟨q, hm, same⟩)
  have keep : ∀ k, k ≠ e.spot → ∀ d, (⟨k, d⟩ : QueueEntry) ∈ rest ↔ (⟨k, d⟩ : QueueEntry) ∈ s.comp.queue := by
    intro k hk d
    rw [hq, List.mem_cons]
    refine ⟨.inr, fun m => m.resolve_left ?_⟩
    rintro rfl
    exact hk rfl
  have noEntry : ∀ k ∈ e.spot :: out, ∀ q ∈ rest, q.spot ≠ k := by
    intro k hk q hm
    rcases List.mem_cons.mp hk with rfl | hk
    · exact once q hm
    · exact h.noEntry k hk q (by rw [hq]; exact List.mem_cons_of_mem _ hm)
  have idleTimers : ∀ st, (s.spot e.spot).state = st → st ≠ .strip → st ≠ .purge → st ≠ .connected →
      st ≠ .ticketWait → (s.spot e.spot).strip.isRunning = false ∧ (s.spot e.spot).purge.isRunning = false ∧
        (s.spot e.spot).settle.isRunning = false ∧ e.spot ∉ s.tickets.wait.map WaitEntry.spot := by
    intro st hs a b d w
    subst hs
    exact ⟨Bool.eq_false_iff.mpr fun m => a (fits.strip m), Bool.eq_false_iff.mpr fun m => b (fits.purge m),
      Bool.eq_false_iff.mpr fun m => d (fits.settle m), fun m => w (fits.waiting m)⟩
  rcases e with ⟨n, kind⟩
  rcases kind with _ | _
  · have state := fits.pushEntry.mp mem
    obtain ⟨strip, purge, settle, noWait⟩ := idleTimers _ state (by decide) (by decide) (by decide) (by decide)
    have sound := sound_grant_push h.comp hq rfl g s.siding.config.startSpacing
    simp only [State.grant]
    refine enterTransfer_shares (n := n) sound ?_ noEntry ?_ ((mem_grant_holders _ _ _).mpr (.inl rfl)) h.noPull
      h.waitOnce noWait strip purge settle
    · intro k hk ne
      refine (h.spots k hk).claims (keep k ne _) (keep k ne _) ?_ Iff.rfl
      exact (mem_grant_holders _ _ _).trans ⟨fun m => m.resolve_left ne, .inr⟩
    · intro k hk m
      rcases (mem_grant_holders _ _ _).mp m with e | m
      · exact hn (e ▸ hk)
      · exact h.noPush k hk m
  · have state := fits.pullEntry.mp mem
    obtain ⟨-, purge, settle, noWait⟩ := idleTimers _ state (by decide) (by decide) (by decide) (by decide)
    have sound := sound_grant_pull h.comp hq rfl g s.siding.config.startSpacing
    have mode : s.comp.mode = .idle := by
      simp only [Compressor.grantable, Bool.and_eq_true, beq_iff_eq] at g
      exact g.2
    have pull := h.comp.no_pull (by rw [mode]; decide)
    have push := h.comp.no_push (by rw [mode]; decide)
    have limit : (s.spot n).limitRunning = false :=
      Bool.eq_false_iff.mpr fun m => by have := fits.limit.mp m; rw [state] at this; cases this
    simp only [State.grant, State.enterStrip]
    refine SharesOn.openValves ?_ n _
    refine ⟨sound, fun k hk => ?_, fun k hk => noEntry k (List.mem_cons_of_mem _ hk), h.noPush, ?_, h.waitOnce⟩
    · rw [State.onSpot_eq, State.spot_setSpot]
      by_cases ne : k = n
      · subst ne
        rw [if_pos rfl]
        constructor
        · exact ⟨fun m => absurd rfl (once ⟨k, .push⟩ m), fun m => nomatch m⟩
        · exact ⟨fun m => absurd rfl (once ⟨k, .pull⟩ m), fun m => nomatch m⟩
        · simp [Compressor.grant, push, SpotRecord.toStrip]
        · simp [Compressor.grant, SpotRecord.toStrip]
        · simp [limit, SpotRecord.toStrip]
        · simp [SpotState.moving, SpotRecord.toStrip]
        · simp [SpotRecord.toStrip]
        · simp [purge, SpotRecord.toStrip]
        · simp [purge, SpotRecord.toStrip]
        · simp [settle, SpotRecord.toStrip]
        · exact fun m => absurd m noWait
      · rw [if_neg ne]
        refine (h.spots k hk).claims (keep k ne _) (keep k ne _) Iff.rfl ?_
        simp [Compressor.grant, pull, Ne.symm ne]
    · intro k hk m
      simp only [State.onSpot_eq, State.comp_setSpot, State.comp_setComp, Compressor.grant, Option.some.injEq] at m
      exact hn (m ▸ hk)

/-- An examination keeps the invariant (R92). -/
theorem SharesOn.examineUpTo {out : List SpotNo} (bound : Nat) {s : State} (h : SharesOn out s) :
    SharesOn out (State.examineUpTo bound s) := by
  induction bound generalizing s with
  | zero => exact h
  | succ bound ih =>
    unfold State.examineUpTo
    split
    · exact h
    · split
      · exact h
      · rename_i e rest hq
        split
        · exact ih (h.grant hq (by assumption))
        · split
          · rename_i c
            simp only [Bool.and_eq_true, bne_iff_ne, ne_eq, beq_iff_eq] at c
            exact ⟨sound_beginChangeover h.comp c.2 _ _, fun k hk => (h.spots k hk).claims .rfl .rfl .rfl .rfl,
              h.noEntry, h.noPush, h.noPull, h.waitOnce⟩
          · exact h

theorem SharesOn.examine {out : List SpotNo} {s : State} (h : SharesOn out s) : SharesOn out s.examine :=
  h.examineUpTo _

/-! ### Transitions -/

/-- The states without a claim on the compressor. -/
def SpotState.unclaimed (state : SpotState) : Prop :=
  state ≠ .startWait ∧ state ≠ .stripWait ∧ state ≠ .transfer ∧ state ≠ .strip

/-- No timer that `Fits` looks at runs. -/
structure SpotRecord.Quiet (r : SpotRecord) : Prop where
  limit : r.limitRunning = false
  window : r.window.isRunning = false
  strip : r.strip.isRunning = false
  purge : r.purge.isRunning = false
  settle : r.settle.isRunning = false

theorem SpotRecord.Quiet.idle {r : SpotRecord} (q : r.Quiet) (state : r.state.unclaimed) : r.Idle :=
  ⟨state.1, state.2.1, state.2.2.1, state.2.2.2, q.limit, q.window, q.strip,
   fun m => absurd (q.purge.symm.trans m) Bool.false_ne_true,
   fun m => absurd (q.purge.symm.trans m) Bool.false_ne_true,
   fun m => absurd (q.settle.symm.trans m) Bool.false_ne_true⟩

theorem SpotRecord.SameCourse.quiet {r r' : SpotRecord} (e : r.SameCourse r') (q : r.Quiet) : r'.Quiet :=
  ⟨e.limit.trans q.limit, Bool.eq_false_iff.mpr fun m => absurd (q.window.symm.trans (e.window m)) Bool.false_ne_true,
   Bool.eq_false_iff.mpr fun m => absurd (q.strip.symm.trans (e.strip m)) Bool.false_ne_true,
   Bool.eq_false_iff.mpr fun m => absurd (q.purge.symm.trans (e.purge m)) Bool.false_ne_true,
   Bool.eq_false_iff.mpr fun m => absurd (q.settle.symm.trans (e.settle m)) Bool.false_ne_true⟩

/-- Outside TRANSFER, STRIP, PURGE and CONNECTED no timer that `Fits` looks at runs. -/
theorem SpotRecord.Fits.quiet {r : SpotRecord} {n : SpotNo} {c : Compressor} {u : TicketUnit} (h : r.Fits n c u)
    (transfer : r.state ≠ .transfer) (strip : r.state ≠ .strip) (purge : r.state ≠ .purge)
    (connected : r.state ≠ .connected) : r.Quiet where
  limit := Bool.eq_false_iff.mpr fun m => transfer (h.limit.mp m)
  window := Bool.eq_false_iff.mpr fun m => by
    have := h.window m
    rcases hs : r.state with _ | _ | _ | _ | _ | _ | _ | _ | _ | _ | _ | _ | _ <;> simp_all [SpotState.moving]
  strip := Bool.eq_false_iff.mpr fun m => strip (h.strip m)
  purge := Bool.eq_false_iff.mpr fun m => purge (h.purge m)
  settle := Bool.eq_false_iff.mpr fun m => connected (h.settle m)

/-- A record whose movement stops, in a state without a settle or a purge timer, has no timer left (R20, R22). -/
theorem SpotRecord.stopMoving_quiet {r : SpotRecord} {n : SpotNo} {c : Compressor} {u : TicketUnit} (h : r.Fits n c u)
    (purge : r.state ≠ .purge) (connected : r.state ≠ .connected) : r.stopMoving.Quiet where
  limit := rfl
  window := rfl
  strip := rfl
  purge := Bool.eq_false_iff.mpr fun m => purge (h.purge m)
  settle := Bool.eq_false_iff.mpr fun m => connected (h.settle m)

namespace SharesFollowStates

variable {s : State} {n : SpotNo}

theorem noWait (h : SharesFollowStates s) (state : (s.spot n).state ≠ .ticketWait) :
    n ∉ s.tickets.wait.map WaitEntry.spot := fun m => state ((h.spots n).waiting m)

/-- A spot takes any record and gives up what it has of the compressor: it is left out (R99, R100). -/
theorem giveUp (h : SharesFollowStates s) (n : SpotNo) (r : SpotRecord) :
    SharesOn [n] ((s.setSpot n r).giveUp n) := by
  unfold State.giveUp
  dsimp only
  split
  · exact (h.on.leave n r).examine
  · exact h.on.leave n r

/-- A spot without a claim takes any record: it is left out. -/
theorem putAside (h : SharesFollowStates s) (state : (s.spot n).state.unclaimed) (r : SpotRecord) :
    SharesOn [n] (s.setSpot n r) where
  comp := h.comp
  spots k hk := by
    rw [State.spot_setSpot, if_neg (by simpa using hk)]
    exact h.spots k
  noEntry k hk e m same := by
    obtain rfl : k = n := by simpa using hk
    rcases e with ⟨j, kind⟩
    obtain rfl : j = k := same
    rcases kind with _ | _
    · exact state.1 ((h.spots j).pushEntry.mp m)
    · exact state.2.1 ((h.spots j).pullEntry.mp m)
  noPush k hk m := by
    obtain rfl : k = n := by simpa using hk
    exact state.2.2.1 ((h.spots k).pushShare.mp m)
  noPull k hk m := by
    obtain rfl : k = n := by simpa using hk
    exact state.2.2.2 ((h.spots k).pullShare.mp m)
  waitOnce := h.waitOnce

/-- A spot without a claim takes a record without one. -/
theorem replace (h : SharesFollowStates s) (state : (s.spot n).state.unclaimed) (r : SpotRecord) (idle : r.Idle)
    (wait : n ∈ s.tickets.wait.map WaitEntry.spot → r.state = .ticketWait) : SharesFollowStates (s.setSpot n r) :=
  (h.putAside state r).comeBack (by rw [State.spot_setSpot_self]; exact idle)
    (by rw [State.spot_setSpot_self]; exact wait)

/-- A spot takes a record without a claim and gives up what it has of the compressor. -/
theorem settleDown (h : SharesFollowStates s) (r : SpotRecord) (idle : r.Idle)
    (wait : (s.spot n).state ≠ .ticketWait) : SharesFollowStates ((s.setSpot n r).giveUp n) := by
  refine (h.giveUp n r).comeBack ?_ fun m => absurd ?_ (h.noWait wait)
  · rw [State.spot_giveUp, State.spot_setSpot_self]
    exact idle
  · simpa [(Course.giveUp _ n).tickets] using m

theorem closeValves (h : SharesFollowStates s) (n : SpotNo) : SharesFollowStates (s.closeValves n) :=
  (h.on.closeValves n).all

theorem onSpot (h : SharesFollowStates s) (n : SpotNo) (f : SpotRecord → SpotRecord)
    (e : (s.spot n).SameCourse (f (s.spot n))) : SharesFollowStates (s.onSpot n f) := (h.on.onSpot n f e).all

/-- Entry to PURGE keeps the invariant (R22). -/
theorem enterPurge (h : SharesFollowStates s) (reason : Option EndReason) (connected : (s.spot n).state ≠ .connected)
    (wait : (s.spot n).state ≠ .ticketWait) : SharesFollowStates (s.enterPurge n reason) := by
  unfold State.enterPurge
  refine (SharesOn.purgeRest ?_ n).all
  refine (h.settleDown _ (toPurge_idle reason ?_) wait).on
  exact Bool.eq_false_iff.mpr fun m => connected ((h.spots n).settle m)

/-- Entry to HELD keeps the invariant (R20). -/
theorem enterHeld (h : SharesFollowStates s) (reason : HoldReason) (purge : (s.spot n).state ≠ .purge)
    (connected : (s.spot n).state ≠ .connected) (wait : (s.spot n).state ≠ .ticketWait) :
    SharesFollowStates (s.enterHeld n reason) := by
  have q := SpotRecord.stopMoving_quiet (h.spots n) purge connected
  refine SharesFollowStates.closeValves (h.settleDown _ ?_ wait) n
  exact SpotRecord.Quiet.idle ⟨q.limit, q.window, q.strip, q.purge, q.settle⟩ (by simp [SpotState.unclaimed, SpotRecord.toHeld])

/-- Entry to TRIPPED keeps the invariant (R26). -/
theorem trip (h : SharesFollowStates s) (brought : List TripCause) (wait : (s.spot n).state ≠ .ticketWait) :
    SharesFollowStates (s.trip n brought) := by
  unfold State.trip
  split
  · exact h
  · refine SharesFollowStates.closeValves (h.settleDown _ ?_ wait) n
    exact SpotRecord.Quiet.idle ⟨rfl, rfl, rfl, rfl, rfl⟩ (by simp [SpotState.unclaimed, SpotRecord.toTripped])

theorem takeCauses (h : SharesFollowStates s) (n : SpotNo) (brought : List TripCause) :
    SharesFollowStates (s.takeCauses n brought) := by
  unfold State.takeCauses
  split
  · refine h.trip _ ?_
    rename_i armed
    intro e
    rw [e] at armed
    cases armed
  · split
    · exact h.onSpot n _ (.addCauses ..)
    · exact h

/-- A spot left out, whose record waits for a share and has no timer, comes in with its queue entry (R90). -/
theorem rejoin (h : SharesOn [n] s) (kind : Duty)
    (state : (s.spot n).state = match kind with | .push => .startWait | .pull => .stripWait)
    (quiet : (s.spot n).Quiet) (wait : n ∉ s.tickets.wait.map WaitEntry.spot) :
    SharesFollowStates (s.setComp { s.comp with queue := s.comp.queue ++ [⟨n, kind⟩] }) where
  comp :=
    { h.comp with
      entriesOnce := by
        have fresh : n ∉ s.comp.queue.map QueueEntry.spot := by
          intro m
          obtain ⟨e, hm, same⟩ := List.mem_map.mp m
          exact h.noEntry n (by simp) e hm same
        show (List.map QueueEntry.spot (s.comp.queue ++ [⟨n, kind⟩])).Nodup
        rw [List.map_append, List.nodup_append]
        refine ⟨h.comp.entriesOnce, by simp, ?_⟩
        intro a ha b hb
        simp only [List.map_cons, List.map_nil, List.mem_singleton] at hb
        rintro rfl
        exact fresh (hb ▸ ha) }
  spots k := by
    rw [State.spot_setComp]
    by_cases e : k = n
    · subst e
      have no := h.noEntry k (by simp)
      have push := h.noPush k (by simp)
      have pull := h.noPull k (by simp)
      have notIn : ∀ d, (⟨k, d⟩ : QueueEntry) ∉ s.comp.queue := fun d m => no _ m rfl
      rcases kind with _ | _
      all_goals
        constructor
        · simp [notIn, state]
        · simp [notIn, state]
        · simp [push, state]
        · simp [pull, state]
        · simp [quiet.limit, state]
        · exact fun m => absurd m (by simp [quiet.window])
        · exact fun m => absurd m (by simp [quiet.strip])
        · exact fun m => absurd m (by simp [quiet.purge])
        · exact fun m => absurd m (by simp [quiet.purge])
        · exact fun m => absurd m (by simp [quiet.settle])
        · exact fun m => absurd m wait
    · refine (h.spots k (by simpa using e)).claims ?_ ?_ Iff.rfl Iff.rfl <;> simp [e]
  waitOnce := h.waitOnce

/-- A spot without a claim begins to wait for a share (R11, R21). -/
theorem beginWait (h : SharesFollowStates s) (kind : Duty) (r : SpotRecord) (unclaimed : (s.spot n).state.unclaimed)
    (state : r.state = match kind with | .push => .startWait | .pull => .stripWait) (quiet : r.Quiet)
    (wait : (s.spot n).state ≠ .ticketWait) : SharesFollowStates ((s.setSpot n r).askShare n kind) := by
  unfold State.askShare
  refine (SharesOn.examine (SharesFollowStates.rejoin (h.putAside unclaimed r) kind ?_ ?_ (h.noWait wait)).on).all
  · rw [State.spot_setSpot_self]; exact state
  · rw [State.spot_setSpot_self]; exact quiet

/-- A spot in TRANSFER goes to STRIP_WAIT on EMPTY (R15). -/
theorem emptyToStripWait (h : SharesFollowStates s) (purge : (s.spot n).state ≠ .purge)
    (connected : (s.spot n).state ≠ .connected) (wait : (s.spot n).state ≠ .ticketWait) :
    SharesFollowStates (s.emptyToStripWait n) := by
  have q := SpotRecord.stopMoving_quiet (h.spots n) purge connected
  unfold State.emptyToStripWait
  rw [State.onSpot_eq]
  refine (SharesOn.examine (SharesFollowStates.rejoin ((h.giveUp n _).closeValves n) .pull ?_ ?_ ?_).on).all
  · rw [State.spot_closeValves, if_pos rfl, State.spot_giveUp, State.spot_setSpot_self]
    rfl
  · rw [State.spot_closeValves, if_pos rfl, State.spot_giveUp, State.spot_setSpot_self]
    exact (SpotRecord.SameCourse.startClosing _).quiet ⟨q.limit, q.window, q.strip, q.purge, q.settle⟩
  · intro m
    refine h.noWait wait ?_
    simpa [(Course.closeValves _ n).tickets, (Course.giveUp _ n).tickets] using m

/-- A spot in ASSIGNED or VACANT goes to CONNECTED, and on to TRIPPED where a level cause is present (R6, R109). -/
theorem connect (h : SharesFollowStates s) (unclaimed : (s.spot n).state.unclaimed) (purge : (s.spot n).state ≠ .purge)
    (wait : (s.spot n).state ≠ .ticketWait) : SharesFollowStates (s.connect n) := by
  refine SharesFollowStates.takeCauses (h.replace unclaimed _ ?_ fun m => absurd m (h.noWait wait)) n _
  have i := (h.spots n).idle unclaimed.1 unclaimed.2.1 unclaimed.2.2.1 unclaimed.2.2.2
  have noPurge : (s.spot n).purge.isRunning ≠ true := fun m => purge (i.purge m)
  exact ⟨nofun, nofun, nofun, nofun, i.limit, i.window, i.stripTimer, fun m => absurd m noPurge,
    fun m => absurd m noPurge, fun _ => rfl⟩

/-- A record with the timers of a quiet one, in a state without a claim. -/
theorem toVacant (h : SharesFollowStates s) (unclaimed : (s.spot n).state.unclaimed) (quiet : (s.spot n).Quiet)
    (wait : n ∉ s.tickets.wait.map WaitEntry.spot) : SharesFollowStates (s.onSpot n SpotRecord.toVacant) :=
  h.replace unclaimed _
    (SpotRecord.Quiet.idle ⟨quiet.limit, quiet.window, quiet.strip, quiet.purge, quiet.settle⟩
      ⟨nofun, nofun, nofun, nofun⟩) fun m => absurd m wait

theorem enterComplete (h : SharesFollowStates s) (unclaimed : (s.spot n).state.unclaimed) (quiet : (s.spot n).Quiet)
    (wait : n ∉ s.tickets.wait.map WaitEntry.spot) : SharesFollowStates (s.enterComplete n) := by
  unfold State.enterComplete
  split
  · exact h.replace unclaimed _
      (SpotRecord.Quiet.idle ⟨quiet.limit, quiet.window, quiet.strip, quiet.purge, quiet.settle⟩
        ⟨nofun, nofun, nofun, nofun⟩) fun m => absurd m wait
  · exact h.toVacant unclaimed quiet wait

theorem moveOnInputs (h : SharesFollowStates s) (n : SpotNo) : SharesFollowStates (s.moveOnInputs n) := by
  unfold State.moveOnInputs
  split
  · rename_i state
    split
    · exact h.connect (by simp [state, SpotState.unclaimed]) (by simp [state]) (by simp [state])
    · exact h
  · rename_i state
    split
    · exact h
    · exact h.toVacant (by simp [state, SpotState.unclaimed])
        ((h.spots n).quiet (by simp [state]) (by simp [state]) (by simp [state]) (by simp [state]))
        (h.noWait (by simp [state]))
  · exact h

theorem takeOutcome (h : SharesFollowStates s) (n : SpotNo) (r : WindowReport) :
    SharesFollowStates (s.takeOutcome n r) := by
  unfold State.takeOutcome
  split
  · rename_i state _ _
    exact h.enterPurge _ (by simp [state]) (by simp [state])
  · rename_i state _ _
    split
    · exact h.emptyToStripWait (by simp [state]) (by simp [state]) (by simp [state])
    · exact h.enterPurge _ (by simp [state]) (by simp [state])
  · rename_i state _ _
    have h' := h.onSpot n (fun r => { r with seqFlags := { r.seqFlags with stripped := true } })
      ⟨rfl, rfl, id, id, id, id, fun _ => rfl⟩
    exact h'.enterPurge _ (by simp [state]) (by simp [state])
  · exact h

theorem takeStationEvent (h : SharesFollowStates s) (old : State) (n : SpotNo) (extra : List TripCause)
    (r : Option WindowReport) : SharesFollowStates (s.takeStationEvent old n extra r) := by
  unfold State.takeStationEvent
  have moved := (h.takeCauses n (causeUnion (s.risen old n) extra)).moveOnInputs n
  split
  · exact moved.takeOutcome n _
  · exact moved

end SharesFollowStates

/-! ### Tickets, strokes, lost stations -/

namespace SharesFollowStates

variable {s : State} {n : SpotNo}

/-- The ticket queue and the serial take no part in the invariant. -/
theorem setTickets (h : SharesFollowStates s) (u : TicketUnit) (wait : u.wait = s.tickets.wait) :
    SharesFollowStates (s.setTickets u) where
  comp := h.comp
  spots k := { h.spots k with waiting := by intro m; exact (h.spots k).waiting (by simpa [wait] using m) }
  waitOnce := by
    show (u.wait.map WaitEntry.spot).Nodup
    rw [wait]
    exact h.waitOnce

/-- The purge of a spot whose purge timer has stopped ends (R23, R174). -/
theorem endPurge (h : SharesFollowStates s) (state : (s.spot n).state = .purge)
    (timer : (s.spot n).purge.isRunning = false) : SharesFollowStates (s.endPurge n) := by
  have unclaimed : (s.spot n).state.unclaimed := by simp [state, SpotState.unclaimed]
  have i := (h.spots n).idle unclaimed.1 unclaimed.2.1 unclaimed.2.2.1 unclaimed.2.2.2
  have quiet : (s.spot n).Quiet :=
    ⟨i.limit, i.window, i.stripTimer, timer, Bool.eq_false_iff.mpr fun m => by simpa [state] using i.settle m⟩
  have noWait := h.noWait (n := n) (by simp [state])
  unfold State.endPurge
  dsimp only
  split
  · rename_i c reason _ _
    split
    · rename_i room
      refine enterComplete ?_ ?_ ?_ ?_
      · refine (h.setTickets _ ?_).onSpot n _ ⟨rfl, rfl, id, id, id, id, fun _ => rfl⟩
        simp [TicketUnit.place, room]
      · simpa using unclaimed
      · exact ⟨by simp [quiet.limit], by simp [quiet.window], by simp [quiet.strip], by simp [quiet.purge],
          by simp [quiet.settle]⟩
      · simpa [TicketUnit.place, room] using noWait
    · rename_i room
      refine (SharesOn.comeBack (n := n) ?_ ?_ ?_)
      · refine ⟨h.comp, fun k hk => ?_, (h.putAside unclaimed (s.spot n)).noEntry,
          (h.putAside unclaimed (s.spot n)).noPush, (h.putAside unclaimed (s.spot n)).noPull, ?_⟩
        · have e : k ≠ n := by simpa using hk
          have old := h.spots k
          simp only [State.onSpot_eq, State.spot_setSpot, if_neg e, State.spot_setTickets]
          exact { old with
            waiting := by
              intro m
              refine old.waiting ?_
              simpa [TicketUnit.place, room, e] using m }
        · simp only [State.onSpot_eq, State.tickets_setSpot, State.tickets_setTickets, TicketUnit.place, room, if_false,
            List.map_append, List.nodup_append]
          refine ⟨h.waitOnce, by simp, ?_⟩
          intro a ha b hb
          simp only [List.map_cons, List.map_nil, List.mem_singleton] at hb
          rintro rfl
          exact noWait (hb ▸ ha)
      · refine SpotRecord.Quiet.idle ⟨?_, ?_, ?_, ?_, ?_⟩ ?_ <;>
          simp [quiet.limit, quiet.window, quiet.strip, quiet.purge, quiet.settle, SpotState.unclaimed]
      · intro _
        simp
  · exact h

theorem settleClosing (h : SharesFollowStates s) (n : SpotNo) : SharesFollowStates (s.settleClosing n) := by
  have h' := h.onSpot n (fun r => { r with closingRead := .settled }) ⟨rfl, rfl, id, id, id, id, fun _ => rfl⟩
  unfold State.settleClosing
  dsimp only
  split
  · rename_i c
    simp only [Bool.and_eq_true, beq_iff_eq] at c
    refine h'.endPurge (by simp [c.1]) ?_
    refine Bool.eq_false_iff.mpr fun m => ?_
    have := (h.spots n).notExpired (by simpa using m)
    rw [c.2] at this
    cases this
  · exact h'

theorem startStroke (h : SharesFollowStates s) (v : ValveIndex) (o : StrokeOrigin) :
    SharesFollowStates (s.startStroke v o) :=
  (((h.on.setStroke _).onSpot _ (·.setValve (valveSideOf v) .opening) (.setValve ..)).request _ _).all

theorem endStroke (h : SharesFollowStates s) (k : Stroke) (drive : Bool) : SharesFollowStates (s.endStroke k drive) := by
  have h' := (((h.on.setStroke none).setLink (((s.setStroke none).link.withdraw (valveSpot k.valve) .stroke).markWithdrawn
    (valveSpot k.valve) .stroke)).onSpot (valveSpot k.valve) (·.setValve (valveSideOf k.valve) .closed) (.setValve ..))
  unfold State.endStroke
  dsimp only
  split
  · exact (h'.requestClose _).all
  · exact h'.all

theorem abortStroke (h : SharesFollowStates s) (drive : Bool) : SharesFollowStates (s.abortStroke drive) := by
  unfold State.abortStroke
  split
  · exact h
  · exact (h.on.setProofRecord _ _).all.endStroke _ _

theorem abortStrokeOn (h : SharesFollowStates s) (n : SpotNo) : SharesFollowStates (s.abortStrokeOn n) := by
  unfold State.abortStrokeOn
  split
  · exact h.abortStroke _
  · exact h

theorem judgeStroke (h : SharesFollowStates s) (k : Stroke) (t : Nat) : SharesFollowStates (s.judgeStroke k t) :=
  (h.on.setProofRecord _ _).all.endStroke _ _

theorem completeWindow (h : SharesFollowStates s) (n : SpotNo) (p : Nat) (e : Bool) (fresh : Option Nat) :
    SharesFollowStates (s.completeWindow n p e fresh).1 := by
  unfold State.completeWindow
  split
  · exact h
  · exact ((h.on.setMeter n _).setMeter n _).all

theorem missWindowIf (h : SharesFollowStates s) (n : SpotNo) (owed : Bool) :
    SharesFollowStates (s.missWindowIf n owed).1 := by
  unfold State.missWindowIf
  split
  · exact h.completeWindow ..
  · exact h

theorem dispose (h : SharesFollowStates s) (old : State) (n : SpotNo) (missed : List LinkEntry) :
    SharesFollowStates (s.dispose old n missed) := by
  unfold State.dispose
  dsimp only
  refine SharesOn.all (SharesOn.judgePollIf ?_ _)
  have h1 := (h.on.setLink { s.link with entries := s.link.entries.filter fun e => e.station != some n }).all
  have h2 := h1.missWindowIf n (anyWindow (missed ++ s.link.entries.filter fun e => e.station == some n))
  split
  · exact (((h2.on.setMeter n _).all.abortStrokeOn n).takeStationEvent old n _ _).settleClosing n |>.on
  · exact ((h2.abortStrokeOn n).takeStationEvent old n _ _).on

theorem becomeLost (h : SharesFollowStates s) (old : State) (n : SpotNo) (missed : List LinkEntry) :
    SharesFollowStates (s.becomeLost old n missed) := (h.on.setStation n _).all.dispose old n missed

end SharesFollowStates

end Sys2Proof.Machine
end

