-- ==== Sys2Proof/Tests/Slice0.lean ====
section
/-! SUPPORT. Tests: the checks of WellFormed, the spec's own worked figures, one step of a few commands, and for every
obligation that has hypotheses a concrete state and operands that meet them. -/

namespace Sys2Proof.Tests

set_option Elab.async false

open Sys2Proof.Machine

/-! ## Helpers -/

/-- The state a command leaves, or none where it stops. -/
def after (c : Instr) (s : State) : Option State :=
  match exec c s with
  | .next t => some t
  | .fault _ | .refused _ => none

/-- A spot record that is present, in a state, with no car. -/
def inState (st : SpotState) : SpotRecord :=
  { SpotRecord.fresh { SpotConfig.powerOn with present := true } with state := st }

/-- The machine after reset with one spot record replaced. -/
def spotAs (n : SpotNo) (r : SpotRecord) : State := State.reset.setSpot n r

/-- A station that is present in a status, with ARMS and BOND true. -/
def stationAs (st : StationStatus) : Station :=
  { Station.powerOn with status := st, inputs := ⟨false, false, true, true⟩ }

/-- A car record of grade 1. -/
def car : CarRecord := ⟨[85, 84, 76, 88, 32, 52, 48, 49, 49, 50], 1, some 38900, none, none⟩

/-- Another car record, admitted at spot 2 alone. -/
def other : CarRecord := ⟨[66], 0, none, none, some [2]⟩

/-- The grade of section 4.5. -/
def propane : Grade :=
  { label := [80, 82, 79, 80, 65, 78, 69]
    breakpoints := [⟨-4000, 57820⟩, ⟨-1000, 54490⟩, ⟨1000, 51200⟩, ⟨1500, 50620⟩, ⟨4000, 47350⟩]
    rounding := .nearestEven, heelFlow := 2000, stripEnd := 300, maxPressure := 1550 }

/-- The machine after reset with a transaction to a station in flight. -/
def flying (n : SpotNo) (t : Txn) : State :=
  { State.reset with link := { State.reset.link with inFlight := some ⟨⟨some n, t, .stopped⟩, .live⟩ } }

theorem awaits_flying (n : SpotNo) (t : Txn) : Awaits (flying n t) ⟨⟨some n, t, .stopped⟩, .live⟩ n t :=
  ⟨rfl, rfl, rfl, nofun⟩

/-! ## WellFormed: an ill-formed term for each check -/

theorem test_wellFormed_body_length :
    (Instr.carAdd 0 (List.replicate 1024 0)).wellFormed = false
      ∧ (Instr.carAdd 0 (List.replicate 1023 0)).wellFormed = true := by
  simp only [Instr.wellFormed, bodyFits, List.length_replicate]
  decide

theorem test_wellFormed_unsupported_code :
    (Instr.unsupportedRequest 0x18 0 []).wellFormed = false ∧ (Instr.unsupportedRequest 0x01 0 []).wellFormed = false
      ∧ (Instr.unsupportedRequest 0x19 0 []).wellFormed = true ∧ (Instr.unsupportedRequest 0 0 []).wellFormed = true := by
  decide

theorem test_wellFormed_unsupported_body :
    (Instr.unsupportedRequest 0x19 0 (List.replicate 1024 0)).wellFormed = false := by
  simp only [Instr.wellFormed, bodyFits, List.length_replicate]
  decide

theorem test_wellFormed_hold_off_of_a_poll :
    (Instr.holdOffExpiry 0 .attentionPoll).wellFormed = false ∧ (Instr.holdOffExpiry 0 .close).wellFormed = true := by
  decide

theorem test_wellFormed_reply_kinds :
    (Instr.initializeReply [0, 2]).wellFormed = false ∧ (Instr.closeReply [0, 1]).wellFormed = false
      ∧ (Instr.valveOpenReply [0, 5]).wellFormed = false ∧ (Instr.sampleReadReply [0, 6]).wellFormed = false
      ∧ (Instr.countAckReply [0, 4]).wellFormed = false ∧ (Instr.strokeReply [0, 8]).wellFormed = false
      ∧ (Instr.clearReply [0, 7]).wellFormed = false ∧ (Instr.clearReply []).wellFormed = false := by
  decide

theorem test_wellFormed_replies :
    (Instr.initializeReply [0, 1]).wellFormed = true ∧ (Instr.closeReply [0, 2]).wellFormed = true
      ∧ (Instr.sampleReadReply [0, 4]).wellFormed = true ∧ (Instr.countAckReply [0, 5]).wellFormed = true
      ∧ (Instr.valveOpenReply [0, 6]).wellFormed = true ∧ (Instr.strokeReply [0, 7]).wellFormed = true
      ∧ (Instr.clearReply [0, 8]).wellFormed = true := by
  decide

theorem test_wellFormed_poll_slots :
    (Instr.attentionPollComplete [[], [], [], [], []]).wellFormed = false
      ∧ (Instr.attentionPollComplete [[], [], [], [], [], []]).wellFormed = true := by
  decide

/-! ## Figures the spec works out -/

/-- The check values of R144 and R184 over the nine characters "123456789". -/
theorem test_crc_check_values :
    crc8 [0x31, 0x32, 0x33, 0x34, 0x35, 0x36, 0x37, 0x38, 0x39] = 0xF4
      ∧ crc16 [0x31, 0x32, 0x33, 0x34, 0x35, 0x36, 0x37, 0x38, 0x39] = 0x29B1 := by
  decide +kernel

/-- The frame of section 10.10: nine bytes, and the request they make. -/
theorem test_frame_of_spot_start :
    (lineFrame 0x07 0x5E [0x02, 0x01]).take 7 = [0xC3, 0x04, 0x00, 0x07, 0x5E, 0x02, 0x01]
      ∧ (lineFrame 0x07 0x5E [0x02, 0x01]).length = 9 ∧ lineCrcChecks (lineFrame 0x07 0x5E [0x02, 0x01]) = true
      ∧ requestOf 0x07 0x5E [0x02, 0x01] = .spotStart 0x5E [0x02, 0x01] := by
  decide +kernel

/-- The table of section 4.5. -/
theorem test_density_lookups :
    [-5000, -4000, -2500, 0, 1000, 1230, 1234, 1500, 2777, 4000, 6000].map (density propane.breakpoints) =
      [57820, 57820, 56155, 52845, 51200, 50934, 50929, 50620, 48950, 47350, 47350] := by
  decide

/-- The spot of section 3.9. -/
def meteredSpot : SpotConfig := { SpotConfig.powerOn with k := 240000, co := 300, dpCutoff := 100 }

/-- The held values of section 3.9.1. -/
def steady : Meter := { Meter.fresh with heldT := ⟨1234, false⟩, heldDp := ⟨1800, false⟩, heldPv := ⟨820, false⟩ }

/-- Window 1 of section 3.9.1. -/
def window1 : Meter × WindowReport :=
  steady.computeWindow meteredSpot (some propane) none ⟨.transfer, 1000⟩ 2600 false (some 880)

theorem test_first_window :
    (window1.1.volume, window1.1.rv, window1.1.liquid, window1.1.rm) = (10833, 80000, 5517, 13857)
      ∧ (window1.1.vapourReturned, window1.1.rr, window1.1.runningNet) = (22, 12200000, 5495)
      ∧ window1.1.heelCountdown = 10 ∧ window1.2 = ⟨.transfer, .none, false⟩ := by
  decide +kernel

/-- Window 4 of section 3.9.2, estimated. -/
def window4 : Meter × WindowReport :=
  { steady with volume := 21666, liquid := 11034, vapourReturned := 45, rv := 160000, rm := 27714, rr := 8400000
    }.computeWindow meteredSpot (some propane) none ⟨.transfer, 1000⟩ 0 true none

theorem test_estimated_window :
    (window4.1.volume, window4.1.liquid, window4.1.vapourReturned, window4.1.rr) = (21666, 11034, 68, 4600000)
      ∧ (window4.1.estimatedWindows, window4.1.heldRun, window4.1.flags.estimated) = (1, 1, true) := by
  decide +kernel

/-- Window F of section 3.9.3: the heel countdown reaches 0. -/
def windowF : Meter × WindowReport :=
  { steady with rv := 80000, heelCountdown := 1 }.computeWindow meteredSpot (some propane) none ⟨.transfer, 1000⟩ 300
    false none

theorem test_heel_reaches_empty :
    (windowF.1.rv, windowF.1.heelCountdown, windowF.2.outcome) = (80000, 0, .empty) := by
  decide +kernel

/-- Window S1 of section 3.9.4. -/
def windowS1 : Meter × WindowReport :=
  { steady with rv := 80000, heldDp := ⟨950, false⟩, heldPv := ⟨410, false⟩ }.computeWindow meteredSpot (some propane)
    none ⟨.strip, 1000⟩ 12 false (some 380)

/-- Window S2 of section 3.9.4. -/
def windowS2 : Meter × WindowReport :=
  { windowS1.1 with heldT := ⟨1230, false⟩, heldDp := ⟨60, false⟩, heldPv := ⟨395, false⟩ }.computeWindow meteredSpot
    (some propane) none ⟨.strip, 1000⟩ 0 false (some 295)

/-- The closing read of section 3.9.4. -/
def closingRead : Meter := windowS2.1.bookClosing meteredSpot (some propane) 7

theorem test_strip_and_closing_read :
    (windowS1.1.rm, windowS1.1.vapourRecovered, windowS1.1.rc, windowS1.2.outcome) = (46450, 11, 11200000, .none)
      ∧ (windowS2.1.rm, windowS2.1.vapourRecovered, windowS2.1.rc, windowS2.2.outcome) =
          (46450, 11, 11200000, .stripEnd)
      ∧ (closingRead.liquid, closingRead.rm, closingRead.rv) = (25 + 15, 23536, 120000) := by
  decide +kernel

/-- The roundings of section 3.9.5. -/
theorem test_rounding :
    [RoundingMode.nearestEven, .towardZero, .up, .down].map (roundNet · 38412500) = [38412, 38412, 38413, 38412]
      ∧ [RoundingMode.nearestEven, .towardZero, .up, .down].map (roundNet · 12345501) = [12346, 12345, 12346, 12345]
      ∧ [RoundingMode.nearestEven, .towardZero, .up, .down].map (roundNet · (-1500)) = [-2, -1, -1, -2]
      ∧ [RoundingMode.nearestEven, .towardZero, .up, .down].map (roundNet · (-400)) = [0, 0, 0, -1] := by
  decide

/-- The clamps of section 3.9.5, and the saturating accumulator. -/
theorem test_clamps :
    clampT (-6000) = ⟨-5000, true⟩ ∧ clampT 6000 = ⟨6000, false⟩ ∧ clampDp 31000 = ⟨25000, true⟩
      ∧ clampPv 99 = ⟨100, true⟩ ∧ addSat 4294960000 9000 = 4294967295 ∧ addOverflows 4294960000 9000 = true := by
  decide

/-- The ticket of section 9.7. -/
def ticket : Ticket :=
  buildTicket 4217 0 { inState .purge with limitMs := 9830300, seqFlags := ⟨false, true, false⟩ }
    { Meter.fresh with
      volume := 75816280, liquid := 38612480, vapourReturned := 214300, vapourRecovered := 14320,
      windowsCounted := 4957, estimatedWindows := 3,
      flags := ⟨false, false, false, true, false, false, false⟩ } car .empty .nearestEven

theorem test_ticket :
    (ticket.netKg, ticket.transferTime, ticket.declared) = (38412, 4569, some ⟨38900, 488⟩)
      ∧ ticket.flags = ⟨⟨false, false, false, true, false, false, false⟩, ⟨false, true, false⟩, false⟩
      ∧ ticket.bytes.length = 61 ∧ ticket.bytes.take 4 = [0x79, 0x10, 0, 0] := by
  decide +kernel

/-- The lengths of the layouts (R193, R199, R200, R203). -/
theorem test_layout_lengths :
    car.bytes.length = 24 ∧ (State.reset.snapshot 0).length = 46 ∧ State.reset.statusResult.length = 54
      ∧ State.reset.proofResult.length = 108 := by
  decide

/-- A car record in its 24 bytes (R199). -/
theorem test_car_bytes :
    other.bytes = [1, 66, 0, 0, 0, 0, 0, 0, 0, 0, 0, 0, 0, 0, 4, 0, 0, 0, 0, 0, 0, 0, 0, 4] := by
  decide

/-! ## One step of some commands -/

theorem test_gap_timer_opens_the_line :
    (after .gapTimerExpiry State.reset).map (·.line.mode) = some .listen := by decide +kernel

theorem test_status_is_answered :
    (after (.status 7 []) State.reset).bind (fun t => t.line.reply.map fun r => (r.code, r.tag, r.status)) =
      some (0x97, 7, .ok) := by decide +kernel

theorem test_unsupported_code_of_the_table_stops :
    exec (.unsupportedRequest 0x01 0 []) State.reset = .fault .notThisCommand := rfl

theorem test_mode_run_is_set :
    (after (.sidingMode 1 [0]) State.reset).map (·.siding.mode) = some .run := by decide +kernel

theorem test_settle_timer_makes_ready :
    (after (.settleTimerExpiry 3) (spotAs 3 { inState .connected with settle := .running 0 })).map
      (fun t => ((t.spot 3).state, (t.spot 3).settle)) = some (.ready, .stopped) := by decide +kernel

theorem test_config_queues_initialize :
    (after (.spotConfig 1 (SpotConfig.body { SpotConfig.powerOn with present := true } 2)) State.reset).map
      (fun t => ((t.station 2).status, t.link.entries, t.link.mask)) =
        some (.unknown, [⟨some 2, .initStation false, .stopped⟩], [2]) := by decide +kernel

theorem test_send_selects_the_close :
    (after .transactionSend { State.reset with link := { State.reset.link with
        entries := [⟨some 1, .clear, .stopped⟩, ⟨some 1, .close, .stopped⟩] } }).map (fun t => t.link.inFlight) =
      some (some ⟨⟨some 1, .close, .stopped⟩, .live⟩) := by decide +kernel

theorem test_hour_ages_the_records :
    (after .hourTimerExpiry State.reset).map (fun t => (t.proofRecord 11).elapsed) = some 65535 := by decide +kernel

theorem test_third_miss_loses_the_station :
    (after .spotLinkMiss ((flying 4 .clear).setStation 4 { stationAs .online with misses := 2 })).map
      (fun t => ((t.station 4).status, (t.station 4).recovery)) = some (.lost, .running 1000) := by decide +kernel

/-! ## For each statement with hypotheses, states and operands that meet them

Where a statement splits on an operand or a field, each clause has a case at the end of its range. -/

/-- The machine after reset with its line unit in a mode, with a buffer and a gap timer. -/
def lineAs (m : LineMode) (buffer : List Byte) (gap : Timer) : State :=
  { State.reset with line := { State.reset.line with mode := m, buffer := buffer, gap := gap } }

/-- The machine after reset with a manifest. -/
def manifestAs (l : List CarRecord) : State := { State.reset with manifest := l }

/-- The machine after reset with its ticket queue and wait list. -/
def ticketsAs (queue : List Ticket) (wait : List WaitEntry) : State :=
  { State.reset with tickets := ⟨1, queue, wait⟩ }

/-- The machine after reset with pending link entries. -/
def entriesAs (l : List LinkEntry) : State := { State.reset with link := { State.reset.link with entries := l } }

/-- Six spots in six states: 0 VACANT, 1 READY with a car, 2 TRIPPED, 3 VACANT with a stroke in flight, 4 in TRANSFER as
the push holder, 5 in START_WAIT at the queue head. -/
def yard : State :=
  let s := State.reset
  let s := { s with
    manifest := [other]
    siding := { s.siding with mode := .run }
    comp := { s.comp with mode := .push, pushHolders := [4], queue := [⟨5, .push⟩] }
    proof := { s.proof with stroke := some ⟨6, .request, 5000, .running 9000⟩ } }
  ((((s.setSpot 1 { inState .ready with car := some car }).setSpot 2
    { inState .tripped with trip := some ⟨.esd, [.esd]⟩ }).setSpot 3 { inState .vacant with valveL := .opening }).setSpot 4
    { inState .transfer with window := .running 400, limitMs := 5, limitRunning := true, valveL := .opened }).setSpot 5
    { inState .startWait with limitMs := 7 }

theorem spotAs_spot (n : SpotNo) (r : SpotRecord) : (spotAs n r).spot n = r := by
  simp [spotAs, State.setSpot, State.spot]

theorem inState_state (st : SpotState) : (inState st).state = st := rfl

theorem test_witness_EmptyQueueStep :
    State.reset.pending = [] ∧ State.reset.dueEvents = [] ∧ (lineAs .hunt [] (.running 0)).pending = []
      ∧ (lineAs .hunt [] (.running 0)).dueEvents = [.gapTimerExpiry]
      ∧ ({ lineAs .hunt [] (.running 0) with link := { State.reset.link with pollHoldOff := .running 0 } } :
          State).dueEvents = [.gapTimerExpiry, .pollHoldOffExpiry] := by decide +kernel

theorem test_witness_ResetHasTheInvariants : State.reset = State.powerOn PinLevels.named [] 0 := rfl

theorem test_witness_LineUnitTakesItsEvents (m : LineMode) (d : Bool) :
    let s : State := { lineAs m [0xC3#8] (.running 0) with line := { (lineAs m [0xC3#8] (.running 0)).line with
      discardNoted := d, reply := some ⟨0x84, 0, .ok, State.reset.summary, []⟩ } }
    s.line.mode = m ∧ s.line.gap.isRunning = true ∧ s.line.reply ≠ none ∧ s.line.discardNoted = d
      ∧ (0xC2#8 : Byte) ≠ 0xC3#8 := ⟨rfl, rfl, nofun, rfl, by decide⟩

/-- What `FramesAreChecked` asks of the bytes: how many, the length field, the CRC computed and received. -/
def frameFacts (bytes : List Byte) : Nat × Nat × Bool :=
  (bytes.length, (bytes.getD 1 0).toNat + 256 * (bytes.getD 2 0).toNat,
    (crc16 ((bytes.drop 1).take (bytes.length - 3))).toNat
      == (bytes.getD (bytes.length - 2) 0).toNat + 256 * (bytes.getD (bytes.length - 1) 0).toNat)

theorem test_witness_FramesAreChecked :
    (lineAs .receiving [0xC3#8] (.running 9)).line.mode = .receiving
      ∧ (frameFacts ([0xC3] ++ [2])).1 = 2
      ∧ (frameFacts ([0xC3, 2] ++ [0])).2.1 = 2 ∧ (frameFacts ([0xC3, 1] ++ [0])).2.1 = 1
      ∧ (frameFacts ([0xC3, 1] ++ [4])).2.1 = 1025 ∧ (frameFacts ([0xC3, 2] ++ [4])).2.1 = 1026
      ∧ frameFacts ([0xC3, 2, 0, 7, 0x5E, 0] ++ [0]) = (7, 2, false)
      ∧ frameFacts ((lineFrame 7 0x5E []).take 6 ++ (lineFrame 7 0x5E []).drop 6) = (7, 2, true) := by decide +kernel

theorem test_witness_FrameRoundTrip :
    (List.replicate 1023 (0xC3#8 : Byte)).length ≤ 1023 ∧ ([] : List Byte).length ≤ 1023
      ∧ (lineAs .listen [] .stopped).line.mode = .listen :=
  ⟨by rw [List.length_replicate], by decide, rfl⟩

theorem test_witness_CodeAndLengthAreJudgedFirst :
    (List.replicate 23 (0#8 : Byte)).length ≠ 24 ∧ ([0] : List Byte).length ≠ 0 ∧ (0#8 : Byte).toNat = 0
      ∧ 24 < (25#8 : Byte).toNat ∧ 24 < (255#8 : Byte).toNat := by decide

theorem test_witness_CarAddChecksInOrder :
    car.bytes.length = 24 ∧ readCarRecord car.bytes = some car
      ∧ (List.replicate 24 (0#8 : Byte)).length = 24 ∧ readCarRecord (List.replicate 24 0) = none
      ∧ (manifestAs [other, car]).manifest = [other] ++ car :: [] ∧ (∀ e ∈ [other], e.carId ≠ car.carId)
      ∧ (let s := spotAs 1 { inState .ready with car := some car }
         (∀ d ∈ s.manifest, d.carId ≠ car.carId) ∧ (s.spot 1).car = some car
          ∧ ∀ k, k < 1 → ∀ e ∈ (s.spot k).car, e.carId ≠ car.carId)
      ∧ (∀ n, ∀ d ∈ (State.reset.spot n).car, d.carId ≠ car.carId)
      ∧ (∀ d ∈ (manifestAs (List.replicate 24 other)).manifest, d.carId ≠ car.carId)
      ∧ 24 ≤ (manifestAs (List.replicate 24 other)).manifest.length
      ∧ (manifestAs (List.replicate 23 other)).manifest.length < 24 := by decide +kernel

theorem test_witness_CarWithdrawAndMove :
    let id := car.bytes.take 13
    id.length = 13 ∧ readCarId id 0 = some car.carId ∧ (id ++ [2]).length = 14 ∧ readCarId (id ++ [2]) 0 = some car.carId
      ∧ readCarId (List.replicate 13 0) 0 = none ∧ readCarId (List.replicate 14 0) 0 = none
      ∧ (manifestAs [other, car]).manifest = [other] ++ car :: [] ∧ (∀ d ∈ [other], d.carId ≠ car.carId)
      ∧ (manifestAs [other, car]).manifest.length ≤ ((id ++ [2]).getD 13 0).toNat
      ∧ ((id ++ [1]).getD 13 0).toNat < (manifestAs [other, car]).manifest.length
      ∧ (let s := spotAs 1 { inState .ready with car := some car }
         (∀ d ∈ s.manifest, d.carId ≠ car.carId) ∧ (s.spot 1).car = some car
          ∧ ∀ k, k < 1 → ∀ e ∈ (s.spot k).car, e.carId ≠ car.carId)
      ∧ ∀ n, ∀ d ∈ (State.reset.spot n).car, d.carId ≠ car.carId := by decide +kernel

theorem carsHold_yard : CarsHold yard where
  validInManifest := by
    intro c h
    obtain rfl : c = other := List.mem_singleton.1 h
    exact ⟨by decide, by decide, by decide, nofun, nofun, by rintro _ ⟨rfl⟩; decide⟩
  validAtSpots := by
    intro n c h
    obtain rfl : c = car := (by decide +kernel : ∀ n, ∀ c ∈ (yard.spot n).car, c = car) n c h
    exact ⟨by decide, by decide, by decide, by rintro _ ⟨rfl⟩; decide, nofun, nofun⟩
  onceInManifest := by decide +kernel
  onceAtSpots := by
    intro n k c d ne hc hd
    exact absurd (((by decide +kernel : ∀ n, ∀ c ∈ (yard.spot n).car, n = 1) n c hc).trans
      ((by decide +kernel : ∀ n, ∀ c ∈ (yard.spot n).car, n = 1) k d hd).symm) ne
  onceAcross := by
    intro c hc n d hd
    exact (by decide +kernel : ∀ c ∈ yard.manifest, ∀ n, ∀ d ∈ (yard.spot n).car, c.carId ≠ d.carId) c hc n d hd

theorem tripsInOrder_yard : TripsInOrder yard := fun n t h =>
  (by decide +kernel : ∀ n, ∀ t ∈ (yard.spot n).trip, t.causes = TripCause.all.filter fun c => c ∈ t.causes) n t h

theorem step_yard : step yard = .next yard.tick := by
  have due : yard.dueEvents = [] := by decide +kernel
  show yard.idle = _
  simp only [State.idle, due]

theorem test_witness_CarsStayValidAndOnce : CarsHold yard ∧ ∃ t, step yard = .next t :=
  ⟨carsHold_yard, _, step_yard⟩

theorem test_witness_ReadingChangesNothing :
    CarsHold yard ∧ (0#8 : Byte).toNat < (1#8 : Byte).toNat ∧ 5 < (6#8 : Byte).toNat
      ∧ (0#8 : Byte).toNat ≤ (5#8 : Byte).toNat ∧ (5#8 : Byte).toNat ≤ 5 ∧ 3 < (4#8 : Byte).toNat ∧ State.reset.grade 3 = none
      ∧ (State.reset.setGrade 3 propane).grade 3 = some propane ∧ State.reset.tickets.queue = []
      ∧ (ticketsAs [ticket] []).tickets.queue = ticket :: [] :=
  ⟨carsHold_yard, by decide +kernel⟩

theorem test_witness_SpotRequestsByState (n : SpotNo) (st : SpotState) (len : Nat) :
    ((spotAs n (inState st)).spot n).state = st
      ∧ (BitVec.ofNat 8 n.val :: List.replicate len 0#8).length = len + 1
      ∧ ((BitVec.ofNat 8 n.val :: List.replicate len 0#8).getD 0 0).toNat = n.val
      ∧ 5 < (((6#8 : Byte) :: List.replicate len 0#8).getD 0 0).toNat := by
  refine ⟨by rw [spotAs_spot, inState_state], by simp, ?_, by simp⟩
  have := n.isLt
  simp; omega

/-- A spot that SPOT_ASSIGN takes, with its station's inputs and a manifest of two records. -/
def assignable (x : Inputs) : State :=
  ({ spotAs 1 (inState .vacant) with manifest := [other, car] } : State).setStation 1
    { stationAs .online with inputs := x }

theorem test_witness_SpotAssignChecksInOrder :
    let id := car.bytes.take 13
    let s := assignable ⟨false, false, true, true⟩
    id.length = 13 ∧ (s.spot 1).state = .vacant ∧ 1 < (2#8 : Byte).toNat ∧ (1#8 : Byte).toNat ≤ 1
      ∧ (State.reset.spot 1).config.present = false ∧ (State.reset.spot 1).state = .vacant
      ∧ (s.spot 1).config.present = true ∧ yard.strokeOn 3 = true ∧ (yard.spot 3).state = .vacant
      ∧ (yard.spot 3).config.present = true ∧ s.strokeOn 1 = false
      ∧ ((s.setStation 1 (stationAs .lost)).station 1).status = .lost ∧ (s.station 1).status ≠ .lost
      ∧ (∀ c ∈ (manifestAs [other]).manifest, ∃ set ∈ c.spotSet, 1 ∉ set)
      ∧ readCarId (List.replicate 13 0) 0 = none ∧ readCarId id 0 = some car.carId
      ∧ (∀ c ∈ (manifestAs [other]).manifest, c.carId ≠ car.carId)
      ∧ (manifestAs [other]).manifest = [] ++ other :: [] ∧ other.spotSet = some [2] ∧ (1 : SpotNo) ∉ [2]
      ∧ readCarId (other.bytes.take 13) 0 = some other.carId := by decide +kernel

theorem test_witness_SpotAssignBinds :
    let id := car.bytes.take 13
    let s := assignable ⟨false, false, true, true⟩
    id.length = 13 ∧ (s.spot 1).state = .vacant ∧ (s.spot 1).config.present = true ∧ s.strokeOn 1 = false
      ∧ (s.station 1).status ≠ .lost ∧ s.manifest = [other] ++ car :: [] ∧ car.spotSet = none
      ∧ (∀ d ∈ [other], ∃ set ∈ d.spotSet, 1 ∉ set) ∧ readCarId id 0 = some car.carId
      ∧ (∀ d ∈ [other], d.carId ≠ car.carId)
      ∧ ((s.station 1).inputs.arms && (s.station 1).inputs.bond) = true ∧ s.siding.stopActive = false
      ∧ (s.station 1).status ≠ .localOp ∧ (s.station 1).inputs.esd = false ∧ (s.station 1).inputs.gas = false
      ∧ ((assignable ⟨true, false, true, true⟩).station 1).inputs.esd = true
      ∧ (((assignable ⟨false, false, false, true⟩).station 1).inputs.arms
          && ((assignable ⟨false, false, false, true⟩).station 1).inputs.bond) = false := by decide +kernel

theorem test_witness_SpotReleaseReturnsTheCar :
    let s (k : Nat) : State :=
      { spotAs 1 { inState .assigned with car := some car } with manifest := List.replicate k other }
    (∀ k ∈ [23, 24], ((s k).spot 1).state = .assigned ∧ ((s k).spot 1).car = some car)
      ∧ (s 23).manifest.length < 24 ∧ 24 ≤ (s 24).manifest.length := by decide +kernel

/-- A READY spot whose permissives are all true. -/
def startable : State :=
  let s := (spotAs 1 { inState .ready with car := some car }).setGrade 1 propane
  ((({ s with siding := { s.siding with mode := .run } } : State).setStation 1 (stationAs .online)).setProofRecord 2
    { ProofRecord.powerOn with state := .current }).setProofRecord 3 { ProofRecord.powerOn with state := .current }

theorem test_witness_SpotStartJudgesPermissives :
    let failing (s : State) := Permissive.all.filter fun p => !s.permissive 1 p
      && !((p == .proofCurrent && (s.spot 1).bypass.proofCurrent) || (p == .carPressure && (s.spot 1).bypass.carPressure))
    (yard.spot 1).state = .ready ∧ failing yard ≠ [] ∧ (startable.spot 1).state = .ready ∧ failing startable = []
      ∧ 1 < (2#8 : Byte).toNat ∧ (1#8 : Byte).toNat ≤ 1 := by decide +kernel

theorem test_witness_SpotHoldAndResume :
    let held (p : ResumePhase) (m : SidingMode) (fault : Bool) : State :=
      { spotAs 1 { inState .held with resumePhase := some p } with
        siding := { State.reset.siding with mode := m, faultActive := fault } }
    (∀ p ∈ [ResumePhase.liquid, .strip], ∀ m ∈ [SidingMode.run, .quiet, .shut], ∀ b : Bool,
        ((held p m b).spot 1).state = .held ∧ ((held p m b).spot 1).resumePhase = some p
          ∧ (held p m b).siding.mode = m ∧ (held p m b).siding.faultActive = b)
      ∧ (yard.spot 4).state = .transfer ∧ (yard.spot 5).state = .startWait
      ∧ ((spotAs 1 (inState .stripWait)).spot 1).state = .stripWait
      ∧ ((spotAs 1 (inState .strip)).spot 1).state = .strip := by decide +kernel

theorem test_witness_SpotStopByTable :
    let s (r : SpotRecord) (windows : Nat) : State := (spotAs 1 r).setMeter 1 { Meter.fresh with windowsCounted := windows }
    (∀ r ∈ [inState .startWait, { inState .held with resumePhase := some .liquid }, inState .transfer,
        inState .stripWait, inState .strip, { inState .held with resumePhase := some .strip }],
      ∀ k ∈ [0, 1], ((s r k).spot 1).state = r.state ∧ ((s r k).spot 1).resumePhase = r.resumePhase
        ∧ ((s r k).meter 1).windowsCounted = k) := by decide +kernel

theorem test_witness_SpotResetDestination :
    let s (windows : Nat) (x : Inputs) : State :=
      ((spotAs 1 { inState .tripped with trip := some ⟨.gas, [.gas]⟩ }).setMeter 1
        { Meter.fresh with windowsCounted := windows }).setStation 1 { stationAs .online with inputs := x }
    let present (t : State) := TripCause.all.filter (t.causePresent 1)
    (∀ k ∈ [0, 1], ∀ b : Bool, ((s k ⟨false, false, b, b⟩).spot 1).state = .tripped
        ∧ ((s k ⟨false, false, b, b⟩).spot 1).trip = some ⟨.gas, [.gas]⟩)
      ∧ present (s 0 ⟨false, true, true, true⟩) ≠ []
      ∧ present (s 1 ⟨false, false, true, true⟩) = [] ∧ 0 < ((s 1 ⟨false, false, true, true⟩).meter 1).windowsCounted
      ∧ present (s 0 ⟨false, false, true, true⟩) = [] ∧ present (s 0 ⟨false, false, true, false⟩) = []
      ∧ ((s 0 ⟨false, false, true, true⟩).meter 1).windowsCounted = 0
      ∧ ((s 0 ⟨false, false, true, true⟩).spot 1).endReason = none := by decide +kernel

theorem test_witness_SpotOverrideWritesTheBypassSet :
    (yard.spot 1).state ∉ [SpotState.vacant, .ticketWait, .complete]
      ∧ ((0xA0#8 : Byte).toNat + 256 * (0#8 : Byte).toNat) &&& 0xFF5F = 0
      ∧ ((0xFF#8 : Byte).toNat + 256 * (7#8 : Byte).toNat).testBit 11 = false
      ∧ ((0x10#8 : Byte).toNat + 256 * (0#8 : Byte).toNat).testBit 4 = true
      ∧ ((0#8 : Byte).toNat + 256 * (0x08#8 : Byte).toNat).testBit 11 = true
      ∧ ¬((∃ p, p ≠ 5 ∧ p ≠ 7 ∧ (160 : Nat).testBit p = true) ∨ ∃ p, 10 < p ∧ (2047 : Nat).testBit p = true) := by
  refine ⟨by decide +kernel, by decide, by decide, by decide, by decide, ?_⟩
  rintro (⟨p, h5, h7, h⟩ | ⟨p, h10, h⟩)
  · have : p < 8 := by
      by_contra hp
      rw [Nat.testBit_lt_two_pow (Nat.lt_of_lt_of_le (by decide) (Nat.pow_le_pow_right (by decide) (not_lt.1 hp)))] at h
      cases h
    interval_cases p <;> first | exact h5 rfl | exact h7 rfl | exact absurd h (by decide)
  · rw [Nat.testBit_lt_two_pow (Nat.lt_of_lt_of_le (by decide) (Nat.pow_le_pow_right (by decide) h10))] at h
    cases h

theorem test_witness_CarAndConfigRoundTrip :
    car.Valid ∧ other.Valid ∧ readCarRecord car.bytes = some car ∧ SpotConfig.powerOn.Valid
      ∧ readSpotConfig (SpotConfig.body SpotConfig.powerOn 5) = some SpotConfig.powerOn ∧ car.bytes.length = 24
      ∧ (SpotConfig.body SpotConfig.powerOn 5).length = 24 ∧ car.IsIn car.bytes ∧ other.IsIn other.bytes :=
  ⟨carsHold_yard.validAtSpots 1 car (by decide +kernel), carsHold_yard.validInManifest other (by decide +kernel),
    by decide +kernel, by constructor <;> decide, by decide +kernel, by decide, by decide,
    ⟨by decide, by decide, by decide, by decide, by decide, by decide, by rintro _ ⟨rfl⟩; decide, nofun, nofun⟩,
    ⟨by decide, by decide, by decide, by decide, by decide, by decide, nofun, nofun, by rintro _ ⟨rfl⟩; decide⟩⟩

/-- One byte out of range, and nothing is read. -/
theorem test_bodies_out_of_range :
    readSpotConfig ((SpotConfig.body SpotConfig.powerOn 5).set 1 2) = none
      ∧ readSpotConfig ((SpotConfig.body SpotConfig.powerOn 5).set 18 61) = none
      ∧ readCarRecord (car.bytes.set 13 4) = none ∧ readCarRecord (other.bytes.set 23 0x44) = none := by
  decide +kernel

theorem test_witness_SpotConfigTakesEffect :
    let body (p : Bool) := SpotConfig.body { SpotConfig.powerOn with present := p } 3
    (∀ p : Bool, (body p).length = 24 ∧ ((body p).getD 0 0).toNat = (3 : SpotNo).val
        ∧ readSpotConfig (body p) = some { SpotConfig.powerOn with present := p })
      ∧ (3#8 :: List.replicate 23 (0#8 : Byte)).length = 24 ∧ readSpotConfig (3#8 :: List.replicate 23 0#8) = none
      ∧ (yard.spot 3).state = .vacant ∧ yard.strokeOn 3 = true
      ∧ yard.proof.stroke = some ⟨6, .request, 5000, .running 9000⟩ ∧ (6 : ValveIndex).val / 2 = (3 : SpotNo).val
      ∧ ((spotAs 3 (inState .vacant)).spot 3).state = .vacant ∧ (spotAs 3 (inState .vacant)).strokeOn 3 = false := by
  decide +kernel

theorem test_witness_QueueHeadIsExamined :
    let s (kind position : Duty) (mode : CompressorMode) (holders : List SpotNo) : State :=
      { yard with comp := { Compressor.fresh position with mode := mode, pushHolders := holders, queue := [⟨5, kind⟩] } }
    let granted (c : Compressor) (e : QueueEntry) : Prop :=
      (e.kind = .push ∧ c.position = .push ∧ (c.mode = .idle ∨ c.mode = .push) ∧ c.pushHolders.length < 4
          ∧ c.spacing = .stopped)
        ∨ (e.kind = .pull ∧ c.position = .pull ∧ c.mode = .idle)
    State.reset.siding.mode ≠ .run ∧ State.reset.comp.queue = [] ∧ yard.siding.mode = .run
      ∧ yard.siding.faultActive = false ∧ yard.comp.queue = ⟨5, .push⟩ :: []
      ∧ granted (s .push .push .push [0, 1, 2]).comp ⟨5, .push⟩ ∧ granted (s .pull .pull .idle []).comp ⟨5, .pull⟩
      ∧ ¬granted (s .push .push .push [0, 1, 2, 3]).comp ⟨5, .push⟩
      ∧ ¬granted (s .pull .push .idle []).comp ⟨5, .pull⟩ ∧ (s .pull .push .idle []).comp.mode = .idle
      ∧ ¬granted (s .pull .push .push [0]).comp ⟨5, .pull⟩ ∧ (s .pull .push .push [0]).comp.mode ≠ .idle := by
  decide +kernel

theorem test_witness_GrantsMoveTheHeadSpot :
    (yard.spot 5).limitMs ≠ 0 ∧ (yard.spot 1).limitMs = 0 ∧ (⟨5, .push⟩ : QueueEntry).kind = .push
      ∧ (⟨5, .pull⟩ : QueueEntry).kind = .pull := by decide +kernel

/-- The items of R85 on a body, in the form `GradeLoadJudgesInOrder` has them. -/
def gradeItems (body : List Byte) : List (Bool × Nat × Nat) :=
  let count := num1 body 17
  let temp (k : Nat) : Int := int2 body (18 + 4 * k)
  let dens (k : Nat) : Nat := num2 body (18 + 4 * k + 2)
  let before : List (Bool × Nat × Nat) :=
    [(3 < num1 body 0, 1, 0), (readChars 8 body 1 = none, 2, 0), (count < 2 || 16 < count, 3, 0)]
  let points : List (Bool × Nat × Nat) := (List.range count).flatMap fun k =>
    [(temp k < -5000 || 6000 < temp k, 4, k + 1), (dens k < 40000 || 65000 < dens k, 5, k + 1),
      (0 < k && temp k ≤ temp (k - 1), 6, k + 1)]
  let after : List (Bool × Nat × Nat) :=
    [(3 < num1 body 10, 7, 0), (num2 body 11 < 100 || 20000 < num2 body 11, 8, 0),
      (num2 body 13 < 150 || 800 < num2 body 13, 9, 0), (num2 body 15 < 700 || 2600 < num2 body 15, 10, 0),
      (num2 body 15 ≤ num2 body 13, 11, 0)]
  before ++ points ++ after

theorem test_witness_GradeLoadJudgesInOrder :
    (propane.bytes 3).length = 18 + 4 * num1 (propane.bytes 3) 17
      ∧ (gradeItems (propane.bytes 3)).find? (fun x => x.1) = none
      ∧ (let b := { propane with breakpoints := [⟨-4000, 57820⟩, ⟨-4000, 54490⟩] }.bytes 3
         b.length = 18 + 4 * num1 b 17 ∧ (gradeItems b).find? (fun x => x.1) = some (true, 6, 2))
      ∧ (let b := { propane with maxPressure := 700, stripEnd := 800 }.bytes 3
         b.length = 18 + 4 * num1 b 17 ∧ (gradeItems b).find? (fun x => x.1) = some (true, 11, 0))
      ∧ (allSpots.filter fun n => (yard.spot n).car.map CarRecord.grade = some 1) ≠ []
      ∧ (allSpots.filter fun n => (yard.spot n).car.map CarRecord.grade = some 3) = [] := by decide +kernel

theorem test_witness_DensityIsInterpolated :
    propane.breakpoints.Pairwise (fun p q => p.temp < q.temp)
      ∧ propane.breakpoints = ⟨-4000, 57820⟩ :: propane.breakpoints.drop 1 ∧ (-4000 : Int) ≤ -4000
      ∧ propane.breakpoints = propane.breakpoints.take 4 ++ [⟨4000, 47350⟩] ∧ (4000 : Int) ≤ 4000
      ∧ propane.breakpoints =
          propane.breakpoints.take 2 ++ ⟨1000, 51200⟩ :: ⟨1500, 50620⟩ :: propane.breakpoints.drop 4
      ∧ (1000 : Int) ≤ 1000 ∧ (1499 : Int) < 1500 := by decide +kernel

/-- The fields of R195 on a body, in the form `SidingConfigJudgesInOrder` has them. -/
def configItems (c : SidingConfig) : List (Bool × Nat) :=
  [(c.window < 500 || 2000 < c.window || c.window % 250 != 0, 1), (120 < c.startSpacing, 2),
    (c.changeoverTime < 5 || 120 < c.changeoverTime, 3), (c.proofInterval < 1 || 720 < c.proofInterval, 4),
    (72 < c.leadTime, 5), (c.proofStep < 10 || 600 < c.proofStep, 6), (c.proofInterval ≤ c.leadTime, 5)]

/-- The configuration that a body of SIDING_CONFIG spells. -/
def configIn (body : List Byte) : SidingConfig :=
  { window := num2 body 0, startSpacing := num1 body 2, changeoverTime := num1 body 3,
    proofInterval := num2 body 4, leadTime := num1 body 6, proofStep := num2 body 7 }

theorem test_witness_SidingConfigJudgesInOrder :
    SidingConfig.powerOn.bytes.length = 9 ∧ (configItems (configIn SidingConfig.powerOn.bytes)).find? (·.1) = none
      ∧ (∀ c ∈ [({ SidingConfig.powerOn with window := 600 }, 1), ({ SidingConfig.powerOn with proofStep := 9 }, 6),
            ({ SidingConfig.powerOn with leadTime := 72, proofInterval := 72 }, 5)],
          c.1.bytes.length = 9 ∧ (configItems (configIn c.1.bytes)).find? (·.1) = some (true, c.2))
      ∧ (allSpots.filter fun n => (yard.spot n).state ∈
          [SpotState.startWait, .transfer, .stripWait, .strip, .held, .purge]) ≠ []
      ∧ (allSpots.filter fun n => (State.reset.spot n).state ∈
          [SpotState.startWait, .transfer, .stripWait, .strip, .held, .purge]) = [] := by decide +kernel

theorem test_witness_SidingModeActsOnSpots :
    2 < (3#8 : Byte).toNat ∧ (2#8 : Byte).toNat = State.reset.siding.mode.code ∧ (2#8 : Byte).toNat = 2
      ∧ yard.siding.mode ≠ .shut ∧ (0#8 : Byte).toNat = 0 ∧ State.reset.siding.mode ≠ .run ∧ (1#8 : Byte).toNat = 1
      ∧ State.reset.siding.mode ≠ .quiet
      ∧ (4 : SpotNo) ∈ allSpots.filter (fun n => (yard.spot n).state ∈
          [SpotState.startWait, .transfer, .stripWait, .strip]) := by decide +kernel

theorem test_witness_ProofRequestChecksInOrder :
    let s (st : StationStatus) (stop : Bool) : State :=
      { (spotAs 5 (inState .vacant)).setStation 5 (stationAs st) with
        siding := { State.reset.siding with stopActive := stop } }
    11 < (12#8 : Byte).toNat ∧ (11#8 : Byte).toNat = (11 : ValveIndex).val ∧ valveSpot 11 = 5
      ∧ (State.reset.spot 5).config.present = false ∧ (yard.spot 5).config.present = true
      ∧ yard.proof.stroke = some ⟨6, .request, 5000, .running 9000⟩
      ∧ ((spotAs 5 (inState .ready)).spot 5).config.present = true ∧ (spotAs 5 (inState .ready)).proof.stroke = none
      ∧ ((spotAs 5 (inState .ready)).spot 5).state ≠ .vacant
      ∧ (∀ st ∈ [StationStatus.online, .unknown], ∀ b : Bool, ((s st b).spot 5).config.present = true
          ∧ (s st b).proof.stroke = none ∧ ((s st b).spot 5).state = .vacant ∧ ((s st b).spot 5).valveL = .closed
          ∧ ((s st b).spot 5).valveV = .closed ∧ ((s st b).station 5).status = st ∧ (s st b).siding.stopActive = b) := by
  decide +kernel

theorem test_witness_TicketReleaseAdmitsTheOldestWaiting :
    let s (arms : Bool) := (ticketsAs (List.replicate 16 ticket) [⟨2, ticket⟩]).setStation 2
      { stationAs .online with inputs := ⟨false, false, true, arms⟩ }
    (leBytes 4 4217).length = 4 ∧ State.reset.tickets.queue = [] ∧ num4 (leBytes 4 4216) 0 ≠ ticket.number
      ∧ num4 (leBytes 4 4217) 0 = ticket.number ∧ (ticketsAs [ticket] []).tickets.queue = ticket :: []
      ∧ (ticketsAs [ticket] []).tickets.wait = []
      ∧ ∀ b : Bool, (s b).tickets.queue = ticket :: List.replicate 15 ticket ∧ (s b).tickets.wait = ⟨2, ticket⟩ :: []
          ∧ ((s b).station 2).inputs.arms = b := by decide +kernel

theorem test_witness_RestartTakesRestartValues :
    let blockers (s : State) := allSpots.filter fun n =>
      (s.spot n).state ∈ [SpotState.startWait, .transfer, .stripWait, .strip, .held, .purge, .tripped]
        ∧ (0 < (s.meter n).windowsCounted ∨ (s.spot n).endReason ≠ none)
    (ticketsAs [ticket] []).tickets.queue ≠ []
      ∧ blockers (yard.setMeter 4 { Meter.fresh with windowsCounted := 1 }) ≠ []
      ∧ yard.tickets.queue = [] ∧ blockers yard = [] := by decide +kernel

theorem sharesFollowStates_yard : SharesFollowStates yard where
  comp := by constructor <;> decide +kernel
  spots n :=
    { pushEntry := (by decide +kernel : ∀ n, ⟨n, .push⟩ ∈ yard.comp.queue ↔ (yard.spot n).state = .startWait) n
      pullEntry := (by decide +kernel : ∀ n, ⟨n, .pull⟩ ∈ yard.comp.queue ↔ (yard.spot n).state = .stripWait) n
      pushShare := (by decide +kernel : ∀ n, n ∈ yard.comp.pushHolders ↔ (yard.spot n).state = .transfer) n
      pullShare := (by decide +kernel : ∀ n, yard.comp.pullHolder = some n ↔ (yard.spot n).state = .strip) n
      limit := (by decide +kernel : ∀ n, (yard.spot n).limitRunning = true ↔ (yard.spot n).state = .transfer) n
      window := (by decide +kernel :
        ∀ n, (yard.spot n).window.isRunning = true → (yard.spot n).state.moving = true) n
      strip := (by decide +kernel : ∀ n, (yard.spot n).strip.isRunning = true → (yard.spot n).state = .strip) n
      purge := (by decide +kernel : ∀ n, (yard.spot n).purge.isRunning = true → (yard.spot n).state = .purge) n
      notExpired := (by decide +kernel :
        ∀ n, (yard.spot n).purge.isRunning = true → (yard.spot n).purgeExpired = false) n
      settle := (by decide +kernel : ∀ n, (yard.spot n).settle.isRunning = true → (yard.spot n).state = .connected) n
      waiting := (by decide +kernel :
        ∀ n, n ∈ yard.tickets.wait.map WaitEntry.spot → (yard.spot n).state = .ticketWait) n }
  waitOnce := by decide +kernel

theorem test_witness_SidingStopTripsArmedSpots :
    SharesFollowStates yard ∧ yard.siding.stopActive = false ∧ (yard.spot 1).state = .ready
      ∧ (yard.spot 4).state = .transfer ∧ (yard.spot 5).state = .startWait ∧ (yard.spot 5).limitMs ≠ 0
      ∧ (yard.spot 2).state = .tripped ∧ yard.strokeOn 2 = false
      ∧ (yard.spot 0).state = .vacant ∧ yard.strokeOn 0 = false
      ∧ yard.proof.stroke = some ⟨6, .request, 5000, .running 9000⟩ ∧ (yard.spot (valveSpot 6)).state = .vacant
      ∧ ({ yard with siding := { yard.siding with stopActive := true } } : State).siding.stopActive = true :=
  ⟨sharesFollowStates_yard, by decide +kernel⟩

/-- A changeover to PULL whose expiry is owed, with the spot that called for it at the queue head. -/
def tie : State :=
  { spotAs 5 (inState .stripWait) with
    siding := { State.reset.siding with mode := .run }
    comp := { Compressor.fresh .push with
      mode := .changeover, target := some .pull, changeover := .running 0, queue := [⟨5, .pull⟩] } }

/-- A fault that comes with the expiry: either is first, and the head stays queued (R97). -/
theorem test_fault_beside_expiry :
    (after .compressorFaultActive tie).map (fun t => (t.comp.mode, t.comp.position, t.comp.queue, t.choices)) =
      some (.idle, if Config.freeChoice 0 % 2 = 0 then .push else .pull, [⟨5, .pull⟩], 1) := by
  let u := tie.setSiding { tie.siding with faultActive := true }
  have owed : u.comp.changeoverDue = true := by decide +kernel
  have either : u.expiryBesideFault =
      if Config.freeChoice 0 % 2 = 0 then { u with choices := 1 } else ({ u with choices := 1 } : State).completeChangeover := by
    rw [State.expiryBesideFault, if_pos owed]
    rfl
  have none_moving : tie.movingSpots = [] := by decide +kernel
  have clear : tie.siding.faultActive = false := by decide +kernel
  rw [after, exec, execCompressorFaultActive, if_neg (ne_true_of_eq_false clear), none_moving]
  dsimp only
  rw [either]
  split <;> decide +kernel

theorem test_witness_CompressorInputsAct :
    yard.siding.faultActive = false ∧ (yard.spot 4).state = .transfer ∧ (yard.spot 5).state ≠ .transfer
      ∧ (yard.spot 5).state ≠ .strip
      ∧ tie.comp.mode = .changeover ∧ tie.comp.changeover = .running 0 ∧ tie.comp.target = some .pull
      ∧ yard.comp.mode ≠ .changeover
      ∧ ({ yard with siding := { yard.siding with faultActive := true } } : State).siding.faultActive = true := by
  decide +kernel

theorem test_witness_SpotTimersMoveTheSpotOn :
    (State.reset.spot 5).settle = .stopped
      ∧ ((spotAs 5 { inState .connected with settle := .running 0 }).spot 5).settle ≠ .stopped
      ∧ (State.reset.spot 4).limitRunning = false ∧ (yard.spot 4).limitRunning = true
      ∧ (State.reset.spot 5).strip = .stopped
      ∧ ((spotAs 5 { inState .strip with strip := .running 0 }).spot 5).strip ≠ .stopped := by decide +kernel

theorem test_witness_WindowTimerClosesAWindow :
    let s (st : SpotState) (r : Option WindowRead) (status : StationStatus) : State :=
      ((spotAs 5 { inState st with window := .running 0 }).setMeter 5 { Meter.fresh with windowRead := r }).setStation 5
        (stationAs status)
    (State.reset.spot 5).window = .stopped
      ∧ ∀ st ∈ [SpotState.transfer, .strip], ∀ r ∈ [none, some ⟨.transfer, 1000⟩], ∀ a ∈ [StationStatus.online, .lost],
          ((s st r a).spot 5).window ≠ .stopped ∧ ((s st r a).spot 5).state = st ∧ ((s st r a).meter 5).windowRead = r
            ∧ ((s st r a).station 5).status = a := by decide +kernel

theorem test_witness_PurgeEndBuildsTheTicket :
    let r (c : ClosingRead) : SpotRecord :=
      { inState .purge with car := some car, endReason := some .empty, purge := .running 0, closingRead := c }
    let s (c : ClosingRead) (k : Nat) : State :=
      { (spotAs 5 (r c)).setGrade 1 propane with tickets := ⟨4294967295, List.replicate k ticket, []⟩ }
    (State.reset.spot 5).purge = .stopped ∧ ((s .outstanding 0).spot 5).purge ≠ .stopped
      ∧ ((s .outstanding 0).spot 5).closingRead ≠ .settled
      ∧ ((s .settled 15).grade 1) = some propane
      ∧ (∀ k ∈ [15, 16], (s .settled k).spot 5 = r .settled ∧ (s .settled k).tickets.queue.length = k) := by
  decide +kernel

theorem test_witness_TravelExpiryIsAValveFault :
    let s (st : SpotState) (c : ValveCommand) : State := spotAs 5 { inState st with valveV := c, travelV := .running 0 }
    (State.reset.spot 5).travel .vapour = .stopped
      ∧ ∀ st ∈ [SpotState.ready, .tripped, .complete], ∀ c ∈ [ValveCommand.closed, .opened, .opening, .closing],
          ((s st c).spot 5).travel .vapour ≠ .stopped ∧ ((s st c).spot 5).valve .vapour = c
            ∧ ((s st c).spot 5).state = st := by decide +kernel

theorem test_witness_CompressorTimersAct :
    let s (t : Option Duty) : State := { State.reset with comp := { Compressor.fresh .push with
      mode := .changeover, target := t, changeover := .running 0 } }
    State.reset.comp.changeover = .stopped ∧ (∀ t : Option Duty, (s t).comp.changeover ≠ .stopped ∧ (s t).comp.target = t) :=
  ⟨by decide +kernel, fun _ => ⟨nofun, rfl⟩⟩

theorem test_witness_ProofTimersAct :
    let eligible (s : State) : Prop := (s.proofRecord s.proof.cursor).state ≠ .current
      ∨ s.siding.config.proofInterval ≤ (s.proofRecord s.proof.cursor).elapsed + s.siding.config.leadTime
    let may (s : State) (n : SpotNo) : Prop := (s.spot n).config.present = true ∧ (s.spot n).state = .vacant
      ∧ s.proof.stroke = none ∧ (s.spot n).valveL = .closed ∧ (s.spot n).valveV = .closed
      ∧ (s.station n).status = .online ∧ s.siding.stopActive = false
    let s := (spotAs 0 (inState .vacant)).setStation 0 (stationAs .online)
    let idle : State := { s with proof := { s.proof with stepTimer := .stopped, hourTimer := .stopped } }
    idle.proof.hourTimer = .stopped ∧ idle.proof.stepTimer = .stopped ∧ s.proof.hourTimer ≠ .stopped
      ∧ s.proof.stepTimer ≠ .stopped ∧ valveSpot s.proof.cursor = 0 ∧ eligible s ∧ may s 0 ∧ ¬may State.reset 0
      ∧ ¬eligible (s.setProofRecord 0 { ProofRecord.powerOn with state := .current, elapsed := 143 })
      ∧ eligible (s.setProofRecord 0 { ProofRecord.powerOn with state := .current, elapsed := 144 }) := by
  decide +kernel

/-- A STROKE of valve 6 in flight with a mark, while a stroke of that valve is in flight. -/
def strokeFlying (mark : FlightMark) : State :=
  { State.reset with
    link := { State.reset.link with inFlight := some ⟨⟨some 3, .stroke .liquid, .stopped⟩, mark⟩ }
    proof := { State.reset.proof with stroke := some ⟨6, .request, 5000, .running 9000⟩ } }

theorem test_witness_StrokesEnd :
    let k : Stroke := ⟨6, .request, 5000, .running 9000⟩
    State.reset.proof.stroke = none ∧ yard.proof.stroke = some k ∧ k.timer ≠ .stopped
      ∧ ({ k with timer := .stopped } : Stroke).timer = .stopped
      ∧ (∀ m ∈ [FlightMark.live, .withdrawn], Awaits (strokeFlying m) ⟨⟨some 3, .stroke .liquid, .stopped⟩, m⟩ 3
          (.stroke .liquid)) ∧ (strokeFlying .live).proof.stroke = some k
      ∧ (∀ t ∈ [5000, 5001, 10000, 10001], (leBytes 2 t).length = 2 ∧ num2 (leBytes 2 t) 0 = t)
      ∧ (1#8 : Byte).getLsbD 0 = true ∧ (1#8 : Byte).getLsbD 1 = false ∧ (3#8 : Byte).getLsbD 0 = true
      ∧ (3#8 : Byte).getLsbD 1 = true ∧ k.valve = valveIndex 3 .liquid ∧ k.valve ≠ valveIndex 3 .vapour :=
  ⟨by decide +kernel, by decide +kernel, nofun, rfl, fun m h => ⟨rfl, rfl, rfl, by
    rcases List.mem_pair.1 h with rfl | rfl <;> nofun⟩, rfl, by decide +kernel⟩

/-- The DONE of a STROKE withdrawn at the end of its stroke ends no other stroke of the valve (R137). -/
theorem test_withdrawn_stroke_judges_nothing :
    let reply := Instr.strokeReply (linkReplyFrame 3 .stroke 3 (leBytes 2 900))
    (after reply (strokeFlying .withdrawn)).map (fun t => t.proof.stroke.isSome) = some true
      ∧ (after reply (strokeFlying .live)).map (fun t => t.proof.stroke.isSome) = some false := by decide +kernel

theorem test_witness_LinkTimersAct :
    let s := entriesAs [⟨some 5, .close, .running 0⟩]
    let held (e : LinkEntry) : Bool := e.station == some 5 && e.txn.kind == .close
    let ended := (entriesAs [⟨some 5, .close, .stopped⟩]).link
    ended.Selects [] ⟨some 5, .close, .stopped⟩ [] ∧ (∀ e ∈ (entriesAs [⟨some 5, .clear, .running 5⟩]).link.entries,
        (entriesAs [⟨some 5, .clear, .running 5⟩]).link.passes e)
      ∧ s.link.inFlight = none ∧ (flying 5 .clear).link.inFlight ≠ none ∧ (∀ e ∈ State.reset.link.entries, held e = true → e.holdOff = .stopped)
      ∧ (∃ e ∈ s.link.entries, held e = true ∧ e.holdOff ≠ .stopped) ∧ State.reset.link.pollHoldOff = .stopped
      ∧ ({ s.link with pollHoldOff := .running 0 } : Link).pollHoldOff ≠ .stopped
      ∧ (State.reset.station 5).recovery = .stopped
      ∧ ((State.reset.setStation 5 { stationAs .lost with recovery := .running 0 }).station 5).recovery ≠ .stopped :=
  ⟨⟨rfl, by
      rintro (h | ⟨n, hn, h | h | h⟩)
      exacts [h rfl, (by rintro _ ⟨rfl⟩; decide : ∀ n, some 5 = some n →
        (entriesAs [⟨some 5, .close, .stopped⟩]).link.hasPending (some n) .initStation ≠ true) n hn h.2, (by decide : ¬LinkKind.close = .sampleRead) h.1,
        (by decide : ¬LinkKind.close = .valveOpen) h.1], nofun, nofun⟩,
    by rintro e (_ | ⟨_, ⟨⟩⟩); exact .inl nofun, by decide +kernel⟩

theorem test_witness_RequestsJoinThePendingList :
    let p : LinkEntry := ⟨some 1, .sampleRead ⟨some .transfer, false, false⟩, .stopped⟩
    let e : LinkEntry := ⟨some 1, .sampleRead ⟨none, true, false⟩, .stopped⟩
    let s := entriesAs [⟨some 1, .clear, .stopped⟩, p]
    State.reset.link.hasPending e.station e.txn.kind = false ∧ s.link.entries = [⟨some 1, .clear, .stopped⟩] ++ p :: []
      ∧ p.samePair e = true ∧ (∀ d ∈ [⟨some 1, .clear, .stopped⟩] ++ ([] : List LinkEntry), d.samePair e = false)
      ∧ (State.reset.station 1).status = .absent
      ∧ ((State.reset.setStation 1 (stationAs .lost)).station 1).status = .lost
      ∧ (let t := (flying 1 (.valveOpen ⟨true, true⟩)).setStation 1 (stationAs .online)
         (t.station 1).status ≠ .absent ∧ (t.station 1).status ≠ .lost
          ∧ t.link.inFlight = some ⟨⟨some 1, .valveOpen ⟨true, true⟩, .stopped⟩, .live⟩)
      ∧ Txn.clear.kind ∉ [LinkKind.sampleRead, .valveOpen, .countAck] := by decide +kernel

theorem test_witness_SendingSelectsByClass :
    let s := entriesAs [⟨some 1, .clear, .stopped⟩, ⟨some 1, .close, .stopped⟩, ⟨some 1, .stroke .liquid, .running 5⟩]
    (flying 1 .clear).link.inFlight ≠ none ∧ s.link.inFlight = none ∧ (∀ e ∈ State.reset.link.entries, False)
      ∧ s.link.entries = [⟨some 1, .clear, .stopped⟩] ++ ⟨some 1, .close, .stopped⟩ ::
          [⟨some 1, .stroke .liquid, .running 5⟩]
      ∧ (⟨some 1, .stroke .liquid, .running 5⟩ : LinkEntry).holdOff ≠ .stopped
      ∧ ¬((⟨some 1, .close, .stopped⟩ : LinkEntry).holdOff ≠ .stopped ∨ ∃ n, (⟨some 1, .close, .stopped⟩ :
          LinkEntry).station = some n ∧ ((Txn.close.kind ≠ .initStation ∧ s.link.hasPending (some n) .initStation = true)
            ∨ (Txn.close.kind = .sampleRead ∧ (s.station n).ackOutstanding ≠ none)
            ∨ (Txn.close.kind = .valveOpen ∧ s.link.hasPending (some n) .close = true))) := by decide +kernel

/-- A window read in flight for a moving spot, its station having missed some replies. -/
def reading (marks : Markings) (missed : Nat) : State :=
  (((flying 4 (.sampleRead marks)).setSpot 4 { inState .transfer with car := some car }).setMeter 4
    { Meter.fresh with windowRead := some ⟨.transfer, 1000⟩, closingRequest := true }).setStation 4
      { stationAs .online with misses := missed }

theorem awaits_reading (marks : Markings) (missed : Nat) :
    Awaits (reading marks missed) ⟨⟨some 4, .sampleRead marks, .stopped⟩, .live⟩ 4 (.sampleRead marks) :=
  ⟨rfl, rfl, rfl, nofun⟩

theorem test_witness_MissesAreCounted :
    let w : Markings := ⟨some .transfer, false, false⟩
    State.reset.link.inFlight = none
      ∧ (⟨none, .attentionPoll, .stopped⟩ : LinkEntry).station = none
      ∧ Awaits (reading w 1) ⟨⟨some 4, .sampleRead w, .stopped⟩, .live⟩ 4 (.sampleRead w)
      ∧ ((reading w 1).station 4).status ≠ .lost ∧ ((reading w 1).station 4).misses < 2 ∧ w.window ≠ none
      ∧ ((reading w 1).meter 4).windowRead = some ⟨.transfer, 1000⟩
      ∧ Awaits (flying 4 .clear) ⟨⟨some 4, .clear, .stopped⟩, .live⟩ 4 .clear ∧ Txn.clear.kind ≠ .sampleRead
      ∧ Awaits (reading ⟨none, true, false⟩ 2) ⟨⟨some 4, .sampleRead ⟨none, true, false⟩, .stopped⟩, .live⟩ 4
          (.sampleRead ⟨none, true, false⟩)
      ∧ 2 ≤ ((reading ⟨none, true, false⟩ 2).station 4).misses
      ∧ ((reading ⟨none, true, false⟩ 2).meter 4).closingRequest = true
      ∧ ((reading w 2).spot 4).state.armed = true
      ∧ (((reading w 2).setStation 4 (stationAs .lost)).station 4).status = .lost :=
  ⟨rfl, rfl, awaits_reading _ _, by decide +kernel, by decide +kernel, nofun, by decide +kernel, awaits_flying _ _,
    by decide, awaits_reading _ _, by decide +kernel⟩

theorem test_witness_RepliesAreJudged :
    let w : Markings := ⟨some .transfer, false, false⟩
    (∀ f, State.reset.link.inFlight = some f → f.entry.station = none)
      ∧ Awaits (flying 4 .clear) ⟨⟨some 4, .clear, .stopped⟩, .live⟩ 4 .clear ∧ Txn.clear.kind ≠ LinkKind.close
      ∧ (¬∃ flags data extra, ([] : List Byte) = linkReplyFrame 4 .clear flags data ++ extra
          ∧ (data.length + 1 = replyLength .clear ∨ (data = [] ∧ flags.getLsbD 0 = false)))
      ∧ Txn.clear.kind = LinkKind.clear ∧ ([] : List Byte).length + 1 = replyLength .clear
      ∧ (6#8 : Byte).getLsbD 0 = false
      ∧ Awaits (reading w 0) ⟨⟨some 4, .sampleRead w, .stopped⟩, .live⟩ 4 (.sampleRead w)
      ∧ (Txn.sampleRead w).kind = LinkKind.sampleRead ∧ (List.replicate 15 (0#8 : Byte)).length + 1 = replyLength .sampleRead
      ∧ w.window ≠ none ∧ ((reading w 0).meter 4).windowRead = some ⟨.transfer, 1000⟩
      ∧ ({ (⟨⟨some 4, .clear, .stopped⟩, .live⟩ : InFlight) with mark := .dropped }).mark = .dropped :=
  ⟨nofun, awaits_flying _ _, by decide, (by rintro ⟨_, _, _, h, _⟩; cases h), rfl, rfl, rfl, awaits_reading _ _, rfl, rfl,
    nofun, by decide +kernel, rfl⟩

theorem test_witness_InitializeReplyStartsTheStation (answered : Bool) :
    Awaits (flying 5 (.initStation answered)) ⟨⟨some 5, .initStation answered, .stopped⟩, .live⟩ 5 (.initStation answered)
      ∧ (1#8 : Byte).getLsbD 0 = true ∧ (1#8 : Byte).getLsbD 1 = false ∧ (3#8 : Byte).getLsbD 0 = true
      ∧ (3#8 : Byte).getLsbD 1 = true :=
  ⟨awaits_flying _ _, by decide⟩

theorem test_witness_ValveRepliesMoveTheCommandStates :
    Awaits (flying 5 .close) ⟨⟨some 5, .close, .stopped⟩, .live⟩ 5 .close
      ∧ Awaits (flying 5 (.valveOpen ⟨true, true⟩)) ⟨⟨some 5, .valveOpen ⟨true, true⟩, .stopped⟩, .live⟩ 5
          (.valveOpen ⟨true, true⟩) ∧ (3#8 : Byte).getLsbD 0 = true :=
  ⟨awaits_flying _ _, awaits_flying _ _, by decide⟩

theorem test_witness_AckAndClearReplies :
    Awaits (flying 5 (.countAck 9 65535)) ⟨⟨some 5, .countAck 9 65535, .stopped⟩, .live⟩ 5 (.countAck 9 65535)
      ∧ Awaits (flying 5 .clear) ⟨⟨some 5, .clear, .stopped⟩, .live⟩ 5 .clear ∧ ([9, 0] : List Byte).length = 2
      ∧ (3#8 : Byte).getLsbD 0 = true :=
  ⟨awaits_flying _ _, awaits_flying _ _, by decide⟩

/-- A read answered NOT_DONE is sent again with its markings, 100 ms later, and its reply is booked (R147, R151). -/
theorem test_read_not_done_is_sent_again :
    (after (.sampleReadReply (linkReplyFrame 4 .sampleRead 1
        [7, 10, 0, 0, 0xD2, 4, 8, 7, 0x34, 3, 0x70, 3, 0x0F, 0x0C, 0])) ((reading ⟨none, true, false⟩ 0).setSpot 4 (inState .vacant))).map
      (fun t => (t.link.entries, (t.station 4).booked)) =
      some ([⟨some 4, .sampleRead ⟨none, true, false⟩, .running 100⟩, ⟨some 4, .countAck 7 10, .stopped⟩], 10) := by
  decide +kernel

theorem test_witness_SampleReadReplyIsBooked :
    let data (total : Byte) : List Byte := [7, total, 0, 0, 0xD2, 4, 8, 7, 0x34, 3, 0x70, 3, 0x0F, 0x0C, 0]
    let m : Markings := ⟨some .transfer, true, true⟩
    Awaits (reading m 0) ⟨⟨some 4, .sampleRead m, .stopped⟩, .live⟩ 4 (.sampleRead m)
      ∧ (∀ t ∈ [0, 10], (data t).length = 15 ∧ (readSample (data t)).total = t.toNat)
      ∧ (1#8 : Byte).getLsbD 0 = true ∧ m.window ≠ none
      ∧ ((reading m 0).meter 4).windowRead = some ⟨.transfer, 1000⟩
      ∧ (m.closing && ((reading m 0).meter 4).closingRequest) = true :=
  ⟨awaits_reading _ _, by decide +kernel⟩

theorem test_witness_AttentionLineQueuesAPoll :
    let s : State := { State.reset with link := { State.reset.link with attentionLine := true } }
    s.link.attentionLine = true ∧ s.link.pollHoldOff = .stopped ∧ s.link.entries = [] ∧ s.link.inFlight = none
      ∧ State.reset.link.attentionLine = false := by decide +kernel

theorem test_witness_AttentionPollIsTaken :
    let s (mark : FlightMark) : State := { State.reset with link := { State.reset.link with
      mask := [1, 2, 3], inFlight := some ⟨⟨none, .attentionPoll, .stopped⟩, mark⟩ } }
    let slots : List (List Byte) := [[], linkReplyFrame 1 .attentionPoll 1 [0], linkReplyFrame 2 .attentionPoll 1 [1],
      linkReplyFrame 3 .attentionPoll 0 [], [], []]
    slots.length = 6 ∧ (∀ mark, TripsInOrder (s mark)) ∧ TripsInOrder yard ∧ (∀ f, State.reset.link.inFlight = some f → f.entry.txn ≠ .attentionPoll)
      ∧ (∀ mark ∈ [FlightMark.live, .dropped], (s mark).link.inFlight =
          some ⟨⟨none, .attentionPoll, .stopped⟩, mark⟩ ∧ ∀ n ∈ [1, 2, 3], n ∈ (s mark).link.mask
            ∧ ((s mark).station n).status ≠ .lost)
      ∧ (State.reset.spot 1).state ≠ .assigned ∧ (State.reset.spot 1).state ≠ .complete :=
  ⟨rfl, fun _ n _ h => (nomatch ((by decide +kernel : ∀ n, (State.reset.spot n).trip = none) n).symm.trans h),
    tripsInOrder_yard, nofun, by decide +kernel⟩

theorem test_witness_ReadingsAreHeldAndLiquidIsBooked :
    let x (validity : Byte) := readSample [7, 10, 0, 0, 0xD2, 4, 8, 7, 0x34, 3, 0x70, 3, validity, 0x0C, 0]
    ((x 15).temp, (x 15).dp, (x 15).pv) = (some 1234, some 1800, some 820)
      ∧ ((x 0).temp, (x 0).dp, (x 0).pv) = (none, none, none) := by decide +kernel

theorem test_witness_WindowIsComputed :
    (steady.heldDp.value ≤ 25000 ∧ steady.heldPv.value ≤ 2500) ∧ 1214 * 1214 ≤ 1800 * 820
      ∧ 1800 * 820 < (1214 + 1) * (1214 + 1)
      ∧ (25000 ≤ 25000 ∧ 2500 ≤ 2500) ∧ 7905 * 7905 ≤ 25000 * 2500 ∧ 25000 * 2500 < (7905 + 1) * (7905 + 1) := by decide

theorem test_witness_NetIsRounded :
    (0 : Int).natAbs = 1000 * 0 + 0 ∧ (-999 : Int).natAbs = 1000 * 0 + 999 ∧ (-4294967295 : Int).natAbs =
      1000 * 4294967 + 295 ∧ (8589934590 : Int).natAbs = 1000 * 8589934 + 590 := by decide

theorem meter_inRange (s : State) (h : ∀ n, s.meter n = Meter.fresh) : MetersInRange s := by
  intro n
  rw [h n]
  constructor <;> decide

theorem test_witness_CapacitiesRangesAndPairsKept :
    CapacitiesHold yard ∧ MetersInRange yard ∧ OnePerPair yard ∧ TripsInOrder yard ∧ ∃ t, step yard = .next t :=
  ⟨by constructor <;> decide +kernel, meter_inRange yard (by decide +kernel), List.Pairwise.nil, tripsInOrder_yard, _,
    step_yard⟩

theorem test_witness_SharesFollowStatesAtEveryStep :
    CapacitiesHold yard ∧ SharesFollowStates yard ∧ ∃ t, step yard = .next t :=
  ⟨test_witness_CapacitiesRangesAndPairsKept.1, sharesFollowStates_yard, _, step_yard⟩

theorem test_witness_WellFormedCommandsNeverStop :
    (Instr.powerOnReset PinLevels.named).wellFormed = true ∧ (Instr.unsupportedRequest 0x19 0 []).wellFormed = true := by
  decide

end Sys2Proof.Tests
end

section
/-! SUPPORT. Every step keeps `SharesFollowStates`: each command is put together from the shared operations, for which
the laws of the model say it already; the passing of 1 ms stops no timer and starts none. -/

namespace Sys2Proof.Machine

/-! ## Records and timers -/

@[simp] theorem Timer.isRunning_stopped : Timer.stopped.isRunning = false := rfl

@[simp] theorem Timer.isRunning_running (ms : Nat) : (Timer.running ms).isRunning = true := rfl

@[simp] theorem Timer.isRunning_tick (t : Timer) : t.tick.isRunning = t.isRunning := by cases t <;> rfl

theorem Timer.isRunning_iff {t : Timer} : t.isRunning = true ↔ t ≠ .stopped := by cases t <;> simp

/-- A spot at its power-on values has no claim and no timer (R3). -/
theorem SpotRecord.fresh_idle (config : SpotConfig) : (SpotRecord.fresh config).Idle :=
  SpotRecord.Quiet.idle ⟨rfl, rfl, rfl, rfl, rfl⟩ (by simp [SpotState.unclaimed, SpotRecord.fresh])

/-- 1 ms stops no timer and starts none (00_scope 4.6). -/
theorem SpotRecord.SameCourse.tick (r : SpotRecord) : SameCourse r r.tick := by
  constructor <;> simp [SpotRecord.tick]

namespace Compressor

variable {c c' : Compressor}

/-- A compressor with the shares, the entries, the mode and the changeover of a sound one is sound. -/
theorem Sound.congr (h : c.Sound) (push : c'.pushHolders = c.pushHolders) (pull : c'.pullHolder = c.pullHolder)
    (queue : c'.queue = c.queue) (mode : c'.mode = c.mode) (target : c'.target = c.target)
    (timer : c'.changeover.isRunning = c.changeover.isRunning) (position : c'.position = c.position) : c'.Sound := by
  constructor <;> simp only [push, pull, queue, mode, target, timer, position]
  exacts [h.fewHolders, h.holdersOnce, h.entriesOnce, h.notBoth, h.pushMode, h.pullMode, h.target, h.timer,
    h.pushPosition, h.pullPosition]

/-- The compressor with no share and no entry, IDLE in a position (R89). -/
theorem sound_fresh (position : Duty) : (Compressor.fresh position).Sound := by
  constructor <;> simp [Compressor.fresh]

/-- A changeover that ends, in whatever position, leaves the compressor IDLE with its queue (R97, R101). -/
theorem Sound.endChangeover (h : c.Sound) (mode : c.mode = .changeover) (position : Duty) :
    { c with mode := .idle, position := position, target := none, changeover := .stopped }.Sound := by
  have push := h.no_push (by rw [mode]; decide)
  have pull := h.no_pull (by rw [mode]; decide)
  constructor <;> simp [push, pull, h.entriesOnce]

theorem Sound.abandonChangeover (h : c.Sound) : c.abandonChangeover.Sound := by
  unfold Compressor.abandonChangeover
  split
  · rename_i mode
    exact h.endChangeover (by simpa using mode) _
  · exact h

/-- The changeover of a running timer completes (R97). -/
theorem Sound.completeChangeover (h : c.Sound) (running : c.changeover.isRunning = true) : c.completeChangeover.Sound :=
  h.endChangeover (h.timer.mpr running) _

end Compressor

namespace SharesFollowStates

variable {s t : State} {n : SpotNo}

/-! ## Changes that touch no share -/

theorem of_same (h : SharesFollowStates s) (comp : t.comp = s.comp) (tickets : t.tickets = s.tickets)
    (spots : ∀ k, (s.spot k).SameCourse (t.spot k)) : SharesFollowStates t := (h.on.of_same comp tickets spots).all

/-- A change outside the spots, the compressor and the tickets. -/
theorem of_apart (h : SharesFollowStates s) (comp : t.comp = s.comp) (tickets : t.tickets = s.tickets)
    (spots : t.spots = s.spots) : SharesFollowStates t :=
  h.of_same comp tickets fun k => by
    rw [State.spot, State.spot, spots]
    exact .refl _

/-- The compressor record changes, and the shares and the queue stay. -/
theorem setComp (h : SharesFollowStates s) {c : Compressor} (sound : c.Sound) (queue : c.queue = s.comp.queue)
    (push : c.pushHolders = s.comp.pushHolders) (pull : c.pullHolder = s.comp.pullHolder) :
    SharesFollowStates (s.setComp c) :=
  ⟨sound, fun k => (h.spots k).claims (by simp [queue]) (by simp [queue]) (by simp [push]) (by simp [pull]), h.waitOnce⟩

theorem ite {c : Prop} [Decidable c] (a : SharesFollowStates s) (b : SharesFollowStates t) :
    SharesFollowStates (if c then s else t) := by
  split <;> assumption

theorem examine (h : SharesFollowStates s) : SharesFollowStates s.examine := h.on.examine.all

theorem foldl {α : Type} {f : State → α → State} (keeps : ∀ t a, SharesFollowStates t → SharesFollowStates (f t a))
    (l : List α) (h : SharesFollowStates s) : SharesFollowStates (l.foldl f s) := by
  induction l generalizing s with
  | nil => exact h
  | cons a l ih => exact ih (keeps s a h)

theorem tellAll {α : Type} {f : State → α → State} (keeps : ∀ t a, SharesFollowStates t → SharesFollowStates (f t a))
    (told : List α) (h : SharesFollowStates s) : SharesFollowStates (s.tellAll told f) :=
  foldl keeps _ (h.of_apart (t := { s with choices := s.choices + told.length }) rfl rfl rfl)

/-! ## Reset and restart -/

/-- With every spot at its power-on values, nothing on the wait list and the compressor fresh, nothing is shared. -/
theorem of_fresh {position : Duty} (comp : s.comp = .fresh position) (wait : s.tickets.wait = [])
    (spots : ∀ k, ∃ config, s.spot k = .fresh config) : SharesFollowStates s where
  comp := comp ▸ Compressor.sound_fresh position
  spots k := by
    obtain ⟨config, fresh⟩ := spots k
    rw [fresh, comp]
    exact (SpotRecord.fresh_idle config).fits (by simp [Compressor.fresh]) (by simp [Compressor.fresh])
      (by simp [Compressor.fresh]) (by simp [wait])
  waitOnce := by simp [wait]

theorem powerOn (pins : PinLevels) (pending : List Instr) (choices : Nat) :
    SharesFollowStates (State.powerOn pins pending choices) :=
  of_fresh (position := .push) rfl rfl fun k => ⟨.powerOn, by simp [State.spot, State.powerOn]⟩

/-- RESTART finds the wait list empty, as the ticket queue is (R174, R196). -/
theorem restart (wait : s.tickets.wait = []) : SharesFollowStates s.restart := by
  have blocks : SharesFollowStates s.restartBlocks := by
    refine of_fresh (position := (s.abortStroke false).comp.position) rfl ?_ fun k =>
      ⟨((s.abortStroke false).spot k).config, by simp [State.spot, State.restartBlocks]⟩
    show (s.abortStroke false).tickets.wait = []
    unfold State.abortStroke
    split
    · exact wait
    · rwa [(State.ends_endStroke s _ _ false).frame.tickets]
  exact (SharesOn.judgePoll (foldl (fun t k h => (h.on.queueInit k).all) _ blocks).on).all

theorem tick (h : SharesFollowStates s) : SharesFollowStates s.tick where
  comp := h.comp.congr rfl rfl rfl rfl rfl (Timer.isRunning_tick _) rfl
  spots k := by
    have same : s.tick.spot k = (s.spot k).tick := by simp [State.spot, State.tick]
    rw [same]
    exact ((h.spots k).congr (.tick _)).claims .rfl .rfl .rfl .rfl
  waitOnce := h.waitOnce

/-! ## Several spots told to hold -/

/-- While grants are frozen, spots that can enter HELD enter it one after the other (R101, R122). -/
theorem foldl_enterHeld (h : SharesFollowStates s) (frozen : s.frozen = true) (reason : HoldReason) (told : List SpotNo)
    (free : ∀ k ∈ told, (s.spot k).state ∉ [SpotState.purge, .connected, .ticketWait]) :
    SharesFollowStates (told.foldl (fun t n => t.enterHeld n reason) s) := by
  induction told generalizing s with
  | nil => exact h
  | cons n told ih =>
    have own := free n List.mem_cons_self
    simp only [List.mem_cons, List.not_mem_nil, or_false, not_or] at own
    obtain ⟨-, -, frozen', others⟩ := s.enterHeld_of_frozen n reason frozen
    refine ih (h.enterHeld reason own.1 own.2.1 own.2.2) frozen' fun k hk => ?_
    by_cases e : k = n
    · subst e
      rw [(s.enters_enterHeld k reason).state]
      decide
    · rw [(others k e).1]
      exact free k (List.mem_cons_of_mem _ hk)

theorem tellAll_enterHeld (h : SharesFollowStates s) (frozen : s.frozen = true) (reason : HoldReason)
    (told : List SpotNo) (free : ∀ k ∈ told, (s.spot k).state ∉ [SpotState.purge, .connected, .ticketWait]) :
    SharesFollowStates (s.tellAll told fun t n => t.enterHeld n reason) :=
  foldl_enterHeld (s := { s with choices := s.choices + told.length }) (h.of_apart rfl rfl rfl) frozen reason _
    fun k hk => free k ((State.mem_arrange _ _ k).mp hk)

/-! ## Requests -/

theorem serve {code tag : Byte} {body : List Byte} {length : Nat} {owner : State → Verdict} (h : SharesFollowStates s)
    (owned : SharesFollowStates (owner s).state) : SharesFollowStates (s.serve code tag body length owner) := by
  unfold State.serve
  split
  · exact (owned.on.setLine _).all
  · exact (h.on.setLine _).all

theorem forSpot {body : List Byte} {owner : SpotNo → State → Verdict} (h : SharesFollowStates s)
    (owned : ∀ n, SharesFollowStates (owner n s).state) : SharesFollowStates (s.forSpot body owner).state := by
  unfold State.forSpot
  split
  · exact h
  · exact owned _

/-- Outside TRANSFER, STRIP, PURGE and CONNECTED no timer that `Fits` looks at runs. -/
theorem quiet_at {st : SpotState} (h : SharesFollowStates s) (state : (s.spot n).state = st)
    (rests : st ∉ [SpotState.transfer, .strip, .purge, .connected] := by decide) : (s.spot n).Quiet := by
  simp only [List.mem_cons, List.not_mem_nil, or_false, not_or, ← state] at rests
  exact (h.spots n).quiet rests.1 rests.2.1 rests.2.2.1 rests.2.2.2

/-- Entry to PURGE from a state other than CONNECTED and TICKET_WAIT (R22). -/
theorem enterPurge_at {st : SpotState} (h : SharesFollowStates s) (state : (s.spot n).state = st)
    (reason : Option EndReason) (leaves : st ∉ [SpotState.connected, .ticketWait] := by decide) :
    SharesFollowStates (s.enterPurge n reason) := by
  simp only [List.mem_cons, List.not_mem_nil, or_false, not_or, ← state] at leaves
  exact h.enterPurge reason leaves.1 leaves.2

theorem bindCar (h : SharesFollowStates s) (vacant : (s.spot n).state = .vacant) (p : Nat) (c : CarRecord) :
    SharesFollowStates (s.bindCar n p c) := by
  have bound : SharesFollowStates ((s.setManifest (s.manifest.eraseIdx p)).onMeter n Meter.onAssign) :=
    ((h.on.setManifest _).setMeter n _).all
  have q := h.quiet_at vacant
  have idle : ((s.spot n).onAssign c).Idle :=
    SpotRecord.Quiet.idle ⟨rfl, q.window, q.strip, q.purge, q.settle⟩ (by simp [SpotState.unclaimed, SpotRecord.onAssign])
  exact moveOnInputs (bound.replace (n := n) (by simp [vacant, SpotState.unclaimed]) _ idle
    fun m => absurd m (h.noWait (by simp [vacant]))) n

theorem assign (h : SharesFollowStates s) (body : List Byte) (n : SpotNo) :
    SharesFollowStates (State.assign body n s).state := by
  unfold State.assign
  split
  · exact h
  · rename_i vacant
    split_ifs
    iterate 4 exact h
    split
    · exact h
    · exact h.bindCar (by simpa using vacant) _ _

theorem release (h : SharesFollowStates s) (n : SpotNo) : SharesFollowStates (State.release n s).state := by
  unfold State.release
  split_ifs with _ releasable
  · exact h
  · exact h
  · exact h
  · have state : (s.spot n).state.unclaimed ∧ (s.spot n).state ≠ .purge ∧ (s.spot n).state ≠ .ticketWait := by
      revert releasable
      cases (s.spot n).state <;> simp [SpotState.releasable, SpotState.unclaimed]
    obtain ⟨unclaimed, purge, ticketWait⟩ := state
    have i := (h.spots n).idle unclaimed.1 unclaimed.2.1 unclaimed.2.2.1 unclaimed.2.2.2
    have idle : { (s.spot n).toVacant with settle := .stopped }.Idle :=
      SpotRecord.Quiet.idle
        ⟨i.limit, i.window, i.stripTimer, Bool.eq_false_iff.mpr fun m => purge (i.purge m), rfl⟩
        (by simp [SpotState.unclaimed, SpotRecord.toVacant])
    exact (h.on.setManifest ((s.spot n).car.toList ++ s.manifest)).all.replace unclaimed _ idle
      fun m => absurd m (h.noWait ticketWait)

theorem start (h : SharesFollowStates s) (body : List Byte) (n : SpotNo) :
    SharesFollowStates (State.start body n s).state := by
  unfold State.start
  split
  · exact h
  · rename_i ready
    have ready : (s.spot n).state = .ready := by simpa using ready
    have q := h.quiet_at ready
    split_ifs
    · exact h
    · exact h
    · simp only [State.enterStartWait, State.onSpot_eq, State.setSpot_setSpot, State.spot_setSpot_self]
      exact h.beginWait .push _ (by simp [ready, SpotState.unclaimed]) rfl
        ⟨q.limit, q.window, q.strip, q.purge, q.settle⟩ (by simp [ready])

theorem hold (h : SharesFollowStates s) (n : SpotNo) : SharesFollowStates (State.hold n s).state := by
  unfold State.hold
  split_ifs with holdable
  · refine h.enterHeld _ ?_ ?_ ?_ <;> intro e <;> rw [e] at holdable <;> cases holdable
  · exact h
  · exact h

theorem resume (h : SharesFollowStates s) (n : SpotNo) : SharesFollowStates (State.resume n s).state := by
  unfold State.resume
  split
  · exact h
  · rename_i held
    have held : (s.spot n).state = .held := by simpa using held
    have q := h.quiet_at held
    have unclaimed : (s.spot n).state.unclaimed := by simp [held, SpotState.unclaimed]
    split
    · exact h
    · dsimp only
      split <;>
        simp only [State.enterStartWait, State.resumeStripWait, State.onSpot_eq, State.setSpot_setSpot,
          State.spot_setSpot_self]
      · exact h.beginWait .pull _ unclaimed rfl ⟨q.limit, q.window, q.strip, q.purge, q.settle⟩ (by simp [held])
      all_goals exact h.beginWait .push _ unclaimed rfl ⟨q.limit, q.window, q.strip, q.purge, q.settle⟩ (by simp [held])

/-- A stop of a waiting liquid phase, from START_WAIT or HELD (R19). -/
theorem stopLiquid (h : SharesFollowStates s) (waits : (s.spot n).state = .startWait ∨ (s.spot n).state = .held) :
    SharesFollowStates (s.stopLiquid n) := by
  have q : (s.spot n).Quiet := by 
    rcases waits with e | e <;> exact h.quiet_at e
  have wait : (s.spot n).state ≠ .ticketWait := by rcases waits with e | e <;> simp [e]
  unfold State.stopLiquid
  split
  · exact h.settleDown _ (SpotRecord.Quiet.idle ⟨q.limit, q.window, q.strip, q.purge, q.settle⟩
      ⟨nofun, nofun, nofun, nofun⟩) wait
  · exact h.enterPurge _ (by rcases waits with e | e <;> simp [e]) wait

theorem leaveHeld (h : SharesFollowStates s) (n : SpotNo) : SharesFollowStates (s.onSpot n SpotRecord.leaveHeld) :=
  h.onSpot n _ ⟨rfl, rfl, id, id, id, id, fun _ => rfl⟩

theorem stop (h : SharesFollowStates s) (n : SpotNo) : SharesFollowStates (State.stop n s).state := by
  unfold State.stop
  split
  case h_1 state => exact h.stopLiquid (.inl state)
  case h_2 state => exact h.enterPurge_at state _
  case h_3 state => exact h.enterPurge_at state _
  case h_4 state => exact h.enterPurge_at state _
  case h_5 state =>
    have left := h.leaveHeld n
    have held : ((s.onSpot n SpotRecord.leaveHeld).spot n).state = .held := by simpa [SpotRecord.leaveHeld] using state
    dsimp only
    split
    · exact left.enterPurge_at held _
    · exact left.stopLiquid (.inr held)
    · exact left.stopLiquid (.inr held)
  all_goals exact h

theorem leaveTripped (h : SharesFollowStates s) (tripped : (s.spot n).state = .tripped) :
    SharesFollowStates (s.leaveTripped n) := by
  have q := h.quiet_at tripped
  have unclaimed : (s.spot n).state.unclaimed := by simp [tripped, SpotState.unclaimed]
  have noWait := h.noWait (n := n) (by simp [tripped])
  unfold State.leaveTripped
  dsimp only
  split
  · have cleared := h.onSpot n (fun r => { r with trip := none }) ⟨rfl, rfl, id, id, id, id, fun _ => rfl⟩
    exact cleared.enterPurge_at (st := .tripped) (by simpa using tripped) _
  · split <;> simp only [State.onSpot_eq, State.setSpot_setSpot, State.spot_setSpot_self]
    · refine h.replace unclaimed _ ?_ fun m => absurd m noWait
      exact ⟨nofun, nofun, nofun, nofun, q.limit, q.window, q.strip,
        fun m => absurd (q.purge.symm.trans m) Bool.false_ne_true,
        fun m => absurd (q.purge.symm.trans m) Bool.false_ne_true, fun _ => rfl⟩
    · refine h.replace unclaimed _ ?_ fun m => absurd m noWait
      exact SpotRecord.Quiet.idle ⟨q.limit, q.window, q.strip, q.purge, q.settle⟩ ⟨nofun, nofun, nofun, nofun⟩

theorem resetTrip (h : SharesFollowStates s) (n : SpotNo) : SharesFollowStates (State.resetTrip n s).state := by
  unfold State.resetTrip
  split_ifs with tripped
  · exact h
  · exact h
  · exact h.leaveTripped (by simpa using tripped)

theorem overrideBypass (h : SharesFollowStates s) (body : List Byte) (n : SpotNo) :
    SharesFollowStates (State.overrideBypass body n s).state := by
  unfold State.overrideBypass
  split_ifs
  · exact h
  · exact h
  · exact h.onSpot n (fun r => { r with bypass := r.bypass.override (num2 body 1) (num2 body 3) })
      ⟨rfl, rfl, id, id, id, id, fun _ => rfl⟩

theorem configure (h : SharesFollowStates s) (body : List Byte) (n : SpotNo) :
    SharesFollowStates (State.configure body n s).state := by
  unfold State.configure
  split
  · exact h
  · split
    · exact h
    · rename_i c _
      have configured := ((h.abortStrokeOn n).onSpot n (fun r => { r with config := c })
        ⟨rfl, rfl, id, id, id, id, fun _ => rfl⟩).on
      dsimp only
      split
      · exact ((((configured.setStation n _).setMeter n _).queueInit n).setLink _).all
      · have absent := configured.onSpot n SpotRecord.onAbsent ⟨rfl, rfl, id, id, id, id, fun _ => rfl⟩
        exact (((absent.setStation n _).setLink _).judgePollIf _).all

theorem configureSiding (h : SharesFollowStates s) (body : List Byte) :
    SharesFollowStates (s.configureSiding body).state := by
  unfold State.configureSiding
  dsimp only
  split
  · exact h
  · split_ifs
    · exact h
    · exact h.of_apart rfl rfl rfl
    · exact h.of_apart rfl rfl rfl

theorem changeMode (h : SharesFollowStates s) (mode : SidingMode) : SharesFollowStates (s.changeMode mode) := by
  have set := (h.on.setSiding { s.siding with mode := mode }).all
  unfold State.changeMode
  cases mode with
  | run => exact set.examine
  | quiet => exact set
  | shut =>
    refine set.tellAll_enterHeld rfl _ _ fun k hk => ?_
    have holdable := (List.mem_filter.mp hk).2
    rw [State.spot_setSiding]
    revert holdable
    cases (s.spot k).state <;> simp [SpotState.holdable]

theorem setMode (h : SharesFollowStates s) (body : List Byte) : SharesFollowStates (s.setMode body).state := by
  unfold State.setMode
  split
  · exact h
  · split
    · exact h
    · exact h.changeMode _

theorem requestProof (h : SharesFollowStates s) (body : List Byte) : SharesFollowStates (s.requestProof body).state := by
  unfold State.requestProof
  split
  · exact h
  · dsimp only
    split
    · exact h
    · split
      · exact h
      · split_ifs
        iterate 4 exact h
        exact h.startStroke ..

/-- The oldest ticket leaves, and the spot of the oldest on the wait list goes on from TICKET_WAIT (R178, R179). -/
theorem releaseOldest (h : SharesFollowStates s) (oldest : Ticket) (rest : List Ticket) :
    SharesFollowStates (s.releaseOldest oldest rest).state := by
  unfold State.releaseOldest
  split
  · exact h.setTickets _ rfl
  · rename_i w waiting wait
    have waits : (s.spot w.spot).state = .ticketWait := (h.spots _).waiting (by simp [wait])
    have once : w.spot ∉ waiting.map WaitEntry.spot ∧ (waiting.map WaitEntry.spot).Nodup := by
      simpa [wait] using h.waitOnce
    refine enterComplete ⟨h.comp, fun k => { h.spots k with waiting := fun m => ?_ }, once.2⟩
      (by simp [waits, SpotState.unclaimed]) (h.quiet_at waits) once.1
    exact (h.spots k).waiting (by rw [wait]; exact List.mem_cons_of_mem _ m)

theorem releaseTicket (h : SharesFollowStates s) (body : List Byte) :
    SharesFollowStates (s.releaseTicket body).state := by
  unfold State.releaseTicket
  split
  · exact h
  · split
    · exact h.releaseOldest ..
    · exact h

/-- RESTART is taken with no ticket in the queue, and then none waits (R174, R196). -/
theorem takeRestart (h : SharesFollowStates s) (waitOnlyWhenFull : s.tickets.wait ≠ [] → s.tickets.queue.length = 16) :
    SharesFollowStates s.takeRestart.state := by
  unfold State.takeRestart
  split
  · exact h
  · rename_i empty
    have wait : s.tickets.wait = [] := by
      by_contra waits
      have full := waitOnlyWhenFull waits
      cases queue : s.tickets.queue with
      | nil => rw [queue] at full; cases full
      | cons t rest => simp [queue] at empty
    dsimp only
    exact restart wait

/-- A request that leaves every block as it was, but for the line unit's reply. -/
theorem of_answered (h : SharesFollowStates s) {code tag : Byte} {body : List Byte} {length : Nat}
    {owner : State → Verdict} (same : (owner s).state = s) :
    SharesFollowStates (s.serve code tag body length owner) :=
  h.serve (by rw [same]; exact h)

/-! ## Completions on the spot link -/

theorem request (h : SharesFollowStates s) (n : SpotNo) (x : Txn) : SharesFollowStates (s.request n x) :=
  (h.on.request n x).all

theorem judgePoll (h : SharesFollowStates s) : SharesFollowStates s.judgePoll := h.on.judgePoll.all

theorem judgePollIf (h : SharesFollowStates s) (b : Bool) : SharesFollowStates (s.judgePollIf b) :=
  (h.on.judgePollIf b).all

theorem setLink (h : SharesFollowStates s) (l : Link) : SharesFollowStates (s.setLink l) := (h.on.setLink l).all

theorem onStation (h : SharesFollowStates s) (n : SpotNo) (f : Station → Station) :
    SharesFollowStates (s.onStation n f) := (h.on.setStation n _).all

theorem onMeter (h : SharesFollowStates s) (n : SpotNo) (f : Meter → Meter) : SharesFollowStates (s.onMeter n f) :=
  (h.on.setMeter n _).all

theorem queueInit (h : SharesFollowStates s) (n : SpotNo) : SharesFollowStates (s.queueInit n) := (h.on.queueInit n).all

theorem freeLink (h : SharesFollowStates s) : SharesFollowStates s.freeLink := h.setLink _

theorem returnEntry (h : SharesFollowStates s) (f : InFlight) (txn : Txn) (holdOff : Timer) :
    SharesFollowStates (s.returnEntry f txn holdOff) := by
  unfold State.returnEntry
  split
  · exact h.setLink _
  · exact h

theorem sendAgainUnlessDone (h : SharesFollowStates s) (f : InFlight) (r : LinkReply) :
    SharesFollowStates (s.sendAgainUnlessDone f r) := by
  unfold State.sendAgainUnlessDone
  split
  · exact h
  · exact h.returnEntry ..

theorem dealAgain (h : SharesFollowStates s) (n : SpotNo) (f : InFlight) : SharesFollowStates (s.dealAgain n f).1 := by
  unfold State.dealAgain
  split
  · refine missWindowIf ?_ n _
    unfold State.returnRead
    dsimp only
    split
    · exact h
    · exact h.returnEntry ..
  · exact h.returnEntry ..

theorem missed (h : SharesFollowStates s) (old : State) (n : SpotNo) (f : InFlight) :
    SharesFollowStates (s.missed old n f) := by
  unfold State.missed
  dsimp only
  split
  · exact (h.onStation n _).dispose ..
  · split
    · exact h.becomeLost ..
    · exact ((h.onStation n _).dealAgain n f).takeStationEvent ..

theorem notInitialized (h : SharesFollowStates s) (old : State) (n : SpotNo) (f : InFlight) :
    SharesFollowStates (s.notInitialized old n f) := by
  unfold State.notInitialized
  have unknown := h.onStation n fun t => { t with misses := 0, status := .unknown }
  dsimp only
  refine takeStationEvent (dealAgain ?_ n f) ..
  split
  · exact unknown
  · exact unknown.queueInit n

theorem takeReply (h : SharesFollowStates s) (kind : LinkKind) (frame : List Byte)
    {taken : State → State → SpotNo → InFlight → LinkReply → State}
    (keeps : ∀ t old n f r, SharesFollowStates t → SharesFollowStates (taken t old n f r)) :
    SharesFollowStates (s.takeReply kind frame taken) := by
  unfold State.takeReply
  split
  · exact h
  · split
    · exact h
    · split
      · exact h.freeLink.judgePollIf _
      · split
        · exact h.freeLink.missed ..
        · split
          · exact h.freeLink.missed ..
          · split
            · exact keeps _ _ _ _ _ h.freeLink
            · exact h.freeLink.notInitialized ..

theorem initReplied (h : SharesFollowStates s) (old : State) (n : SpotNo) (f : InFlight) (r : LinkReply) :
    SharesFollowStates (s.initReplied old n f r) := by
  have heard := h.onStation n (·.heard r)
  have first : SharesFollowStates ((s.onStation n (·.heard r)).firstInitReply n) := by
    have withdrawn := (heard.onStation n Station.initialized).setLink
      (((s.onStation n (·.heard r)).onStation n Station.initialized).link.withdraw n .countAck)
    unfold State.firstInitReply
    dsimp only
    split
    · exact withdrawn.onMeter n _
    · exact withdrawn
  have booked : SharesFollowStates (if f.entry.txn.answeredBefore then s.onStation n (·.heard r)
      else (s.onStation n (·.heard r)).firstInitReply n) := by
    split
    · exact heard
    · exact first
  unfold State.initReplied
  dsimp only
  split
  · exact ((booked.takeStationEvent old n [] none).on.initDone n).all.request ..
  · exact (booked.returnEntry ..).takeStationEvent ..

theorem closeReplied (h : SharesFollowStates s) (old : State) (n : SpotNo) (f : InFlight) (r : LinkReply) :
    SharesFollowStates (s.closeReplied old n f r) := by
  have taken := ((h.onStation n fun t => (t.heard r).reportPositions r.data).sendAgainUnlessDone f r).takeStationEvent
    old n [] none
  unfold State.closeReplied
  dsimp only
  split
  · exact (taken.on.closeDone n).all
  · exact taken

theorem openReplied (h : SharesFollowStates s) (old : State) (n : SpotNo) (f : InFlight) (r : LinkReply) :
    SharesFollowStates (s.openReplied old n f r) := by
  have taken := ((h.onStation n fun t => (t.heard r).reportPositions r.data).sendAgainUnlessDone f r).takeStationEvent
    old n [] none
  unfold State.openReplied
  dsimp only
  split
  · exact taken.onSpot n _ (.openDone ..)
  · exact taken

theorem meterReply (h : SharesFollowStates s) (n : SpotNo) (m : Markings) (x : Sample) (p : Nat) :
    SharesFollowStates (s.meterReply n m x p).1 := by
  have renewed := h.onMeter n (·.renew x)
  have window : SharesFollowStates (if m.window.isSome then
      (s.onMeter n (·.renew x)).completeWindow n p x.usesHeld x.carPressure else (s.onMeter n (·.renew x), none)).1 := by
    split
    · exact renewed.completeWindow ..
    · exact renewed
  unfold State.meterReply
  dsimp only
  split
  · exact window.on.setMeter n _ |>.all
  · exact window

theorem requestIf (h : SharesFollowStates s) (c : Prop) [Decidable c] (n : SpotNo) (x : Txn) :
    SharesFollowStates (if c then s.request n x else s) := ite (h.request n x) h

theorem settleClosingIf (h : SharesFollowStates s) (c : Prop) [Decidable c] (n : SpotNo) :
    SharesFollowStates (if c then s.settleClosing n else s) := ite (h.settleClosing n) h

theorem sampleReplied (h : SharesFollowStates s) (old : State) (n : SpotNo) (f : InFlight) (r : LinkReply) :
    SharesFollowStates (s.sampleReplied old n f r) := by
  unfold State.sampleReplied
  refine judgePollIf (requestIf (requestIf (settleClosingIf (takeStationEvent (meterReply ?_ ..) ..) ..) ..) ..) _
  exact (h.onStation n _).sendAgainUnlessDone f r

theorem ackReplied (h : SharesFollowStates s) (old : State) (n : SpotNo) (f : InFlight) (r : LinkReply) :
    SharesFollowStates (s.ackReplied old n f r) := by
  unfold State.ackReplied
  exact ((h.onStation n _).sendAgainUnlessDone f r).takeStationEvent ..

theorem strokeReplied (h : SharesFollowStates s) (old : State) (n : SpotNo) (f : InFlight) (r : LinkReply) :
    SharesFollowStates (s.strokeReplied old n f r) := by
  have taken := ((h.onStation n (·.heard r)).sendAgainUnlessDone f r).takeStationEvent old n [] none
  unfold State.strokeReplied
  dsimp only
  split
  · exact taken
  · split
    · exact taken.judgeStroke ..
    · exact taken

theorem clearReplied (h : SharesFollowStates s) (old : State) (n : SpotNo) (f : InFlight) (r : LinkReply) :
    SharesFollowStates (s.clearReplied old n f r) :=
  (((h.onStation n _).sendAgainUnlessDone f r).takeStationEvent ..).judgePoll

theorem pollDone (h : SharesFollowStates s) (slots : List (List Byte)) : SharesFollowStates (s.pollDone slots) := by
  have uninitialized (l : List SpotNo) : SharesFollowStates (l.foldl State.pollNotInitialized s) :=
    foldl (fun t n ht => ((ht.onStation n _).queueInit n).takeStationEvent ..) l h
  have read (l : List SpotNo) {u : State} (hu : SharesFollowStates u) :
      SharesFollowStates (l.foldl (fun t n => t.request n (.sampleRead ⟨none, false, true⟩)) u) :=
    foldl (fun t n ht => ht.request n _) l hu
  unfold State.pollDone
  dsimp only
  refine judgePoll ?_
  split
  · exact (read _ (uninitialized _)).setLink _
  · exact read _ (uninitialized _)

/-! ## Inputs and timers -/

theorem takeStop (h : SharesFollowStates s) (told : Option SpotNo) : SharesFollowStates (s.takeStop told) := by
  cases told with
  | some n => exact h.takeCauses n _
  | none => exact h.abortStroke _

/-- The changeover of a running timer completes, and the head is examined (R97). -/
theorem completeChangeover (h : SharesFollowStates s) (running : s.comp.changeover.isRunning = true) :
    SharesFollowStates s.completeChangeover :=
  (h.setComp (h.comp.completeChangeover running) rfl rfl rfl).examine

theorem expiryBesideFault (h : SharesFollowStates s) : SharesFollowStates s.expiryBesideFault := by
  have chosen : SharesFollowStates { s with choices := s.choices + 1 } := h.of_apart rfl rfl rfl
  unfold State.expiryBesideFault
  dsimp only
  split
  · rename_i due
    simp only [Compressor.changeoverDue, Bool.and_eq_true, beq_iff_eq] at due
    split
    · exact chosen
    · exact chosen.completeChangeover (h.comp.timer.mp due.1)
  · exact h

theorem takeWindow (h : SharesFollowStates s) (n : SpotNo) (phase : Phase) (period : Nat) :
    SharesFollowStates (s.takeWindow n phase period).1 := by
  have counted := h.onMeter n fun m => { m with windowsCounted := count32 m.windowsCounted }
  unfold State.takeWindow
  dsimp only
  split
  · exact (counted.on.setMeter n _).all
  · split
    · exact (counted.onMeter n _).completeWindow ..
    · exact (counted.onMeter n _).request ..

/-- The settle timer of a CONNECTED spot runs out (R7). -/
theorem settled (h : SharesFollowStates s) (running : (s.spot n).settle.isRunning = true) :
    SharesFollowStates (s.onSpot n fun r =>
      { r with settle := .stopped, state := if r.state == .connected then .ready else r.state }) := by
  have state := (h.spots n).settle running
  have i := (h.spots n).idle (by simp [state]) (by simp [state]) (by simp [state]) (by simp [state])
  have purge : (s.spot n).purge.isRunning = false := Bool.eq_false_iff.mpr fun m => by simpa [state] using i.purge m
  have quiet : ({ s.spot n with
      settle := .stopped
      state := if (s.spot n).state == .connected then .ready else (s.spot n).state } : SpotRecord).Quiet :=
    ⟨i.limit, i.window, i.stripTimer, purge, rfl⟩
  exact h.replace (by simp [state, SpotState.unclaimed]) _ (quiet.idle (by simp [state, SpotState.unclaimed]))
    fun m => absurd m (h.noWait (by simp [state]))

/-! ## Every command -/

/-- What an outcome leads to keeps the invariant. -/
def Leads (o : Host.Outcome State Fault Refusal) : Prop := ∀ t, o = .next t → SharesFollowStates t

theorem leads_next (h : SharesFollowStates s) : Leads (.next s) := by
  rintro _ ⟨⟩
  exact h

theorem leads_if {c : Prop} [Decidable c] (h : SharesFollowStates s) (ht : c → SharesFollowStates t) :
    Leads (if c then .next t else .next s) := by
  split
  · exact leads_next (ht ‹c›)
  · exact leads_next h

theorem addCar (h : SharesFollowStates s) (body : List Byte) : SharesFollowStates (s.addCar body).state := by
  unfold State.addCar
  split
  · exact h
  · split
    · exact h
    · exact h
    · split
      · exact h
      · exact (h.on.setManifest _).all

theorem withdrawCar (h : SharesFollowStates s) (body : List Byte) : SharesFollowStates (s.withdrawCar body).state := by
  unfold State.withdrawCar
  split
  · exact h
  · split
    · exact (h.on.setManifest _).all
    · split <;> exact h

theorem moveCar (h : SharesFollowStates s) (body : List Byte) : SharesFollowStates (s.moveCar body).state := by
  unfold State.moveCar
  split
  · exact h
  · split
    · split
      · exact (h.on.setManifest _).all
      · exact h
    · split <;> exact h

theorem loadGrade (h : SharesFollowStates s) (body : List Byte) : SharesFollowStates (s.loadGrade body).state := by
  unfold State.loadGrade
  split
  · exact h
  · split
    · exact h
    · exact (h.on.setGrade _ _).all

/-- The requests that read leave every block as it was (R40, R88, R177, R192). -/
theorem state_readSpots (body : List Byte) : (s.readSpots body).state = s := by
  unfold State.readSpots
  dsimp only
  split <;> rfl

theorem state_readGrade (body : List Byte) : (s.readGrade body).state = s := by
  unfold State.readGrade
  split
  · rfl
  · split <;> rfl

theorem state_readTicket : s.readTicket.state = s := by
  unfold State.readTicket
  split <;> rfl

/-- A timer's expiry that is taken where the timer runs. -/
theorem leads_windowTimer (h : SharesFollowStates s) (n : SpotNo) : Leads (execWindowTimerExpiry n s) := by
  unfold execWindowTimerExpiry
  refine leads_if h fun running => ?_
  have reloaded := h.onSpot n (fun r => { r with window := .running s.siding.config.window })
    ⟨rfl, rfl, fun _ => running, id, id, id, fun _ => rfl⟩
  exact (reloaded.takeWindow ..).takeStationEvent ..

theorem leads_transferLimit (h : SharesFollowStates s) (n : SpotNo) : Leads (execTransferLimitExpiry n s) := by
  unfold execTransferLimitExpiry
  refine leads_if h fun running => ?_
  have stands := h.onSpot n (fun r => { r with limitMs := 0 }) ⟨rfl, rfl, id, id, id, id, fun _ => rfl⟩
  exact stands.enterPurge_at (st := .transfer) (by simpa using (h.spots n).limit.mp running) _

theorem leads_stripTimer (h : SharesFollowStates s) (n : SpotNo) : Leads (execStripTimerExpiry n s) := by
  unfold execStripTimerExpiry
  refine leads_if h fun running => ?_
  have flagged := h.onSpot n (fun r => { r with seqFlags := { r.seqFlags with stripped := true, stripTimeout := true } })
    ⟨rfl, rfl, id, id, id, id, fun _ => rfl⟩
  exact flagged.enterPurge_at (st := .strip) (by simpa using (h.spots n).strip running) _

theorem leads_purgeTimer (h : SharesFollowStates s) (n : SpotNo) : Leads (execPurgeTimerExpiry n s) := by
  unfold execPurgeTimerExpiry
  refine leads_if h fun _ => ?_
  have expired := h.onSpot n (fun r => { r with purge := .stopped, purgeExpired := true })
    ⟨rfl, rfl, id, id, nofun, id, nofun⟩
  split
  · rename_i ends
    simp only [Bool.and_eq_true, beq_iff_eq] at ends
    exact expired.endPurge (by simpa using ends.1) (by simp)
  · exact expired

theorem leads_travelTimer (h : SharesFollowStates s) (n : SpotNo) (side : ValveSide) :
    Leads (execTravelTimerExpiry n side s) := by
  have stopped := h.onSpot n (·.setTravel side .stopped) (.setTravel ..)
  unfold execTravelTimerExpiry
  split
  · exact leads_if stopped fun _ => (stopped.on.setProofRecord _ _).all.takeCauses n _
  · exact leads_next h

theorem leads_unsupported (h : SharesFollowStates s) (code tag : Byte) (body : List Byte) :
    Leads (execUnsupportedRequest code tag body s) := by
  unfold execUnsupportedRequest
  split
  · rintro _ ⟨⟩
  · exact leads_next (h.on.setLine _).all

theorem leads_sidingStop (h : SharesFollowStates s) : Leads (execSidingStopActive s) := by
  unfold execSidingStopActive
  split
  · exact leads_next h
  · exact leads_next (tellAll (fun t n ht => ht.takeStop n) _ (h.on.setSiding _).all)

theorem leads_compressorFault (h : SharesFollowStates s) : Leads (execCompressorFaultActive s) := by
  unfold execCompressorFaultActive
  split
  · exact leads_next h
  · refine leads_next ?_
    set faulty := s.setSiding { s.siding with faultActive := true } with hf
    have frozen : faulty.frozen = true := by simp [hf, State.frozen]
    obtain ⟨choices, c, beside, -⟩ := faulty.expiryBesideFault_of_frozen frozen
    have kept := (h.on.setSiding { s.siding with faultActive := true }).all.expiryBesideFault
    have abandoned : SharesFollowStates (faulty.expiryBesideFault.setComp
        faulty.expiryBesideFault.comp.abandonChangeover) := by
      refine kept.setComp kept.comp.abandonChangeover ?_ ?_ ?_ <;> unfold Compressor.abandonChangeover <;> split <;> rfl
    refine abandoned.tellAll_enterHeld ?_ _ _ fun k hk => ?_
    · rw [beside]
      exact frozen
    · have same : (faulty.expiryBesideFault.setComp faulty.expiryBesideFault.comp.abandonChangeover).spot k =
          s.spot k := by rw [State.spot_setComp, beside]; rfl
      have moving := (List.mem_filter.mp hk).2
      rw [same]
      revert moving
      cases (s.spot k).state <;> simp [SpotState.moving]

theorem leads_poll (h : SharesFollowStates s) (slots : List (List Byte)) :
    Leads (execAttentionPollComplete slots s) := by
  unfold execAttentionPollComplete
  split
  · exact leads_next h
  · split
    · exact leads_next h
    · exact leads_if (h.freeLink.pollDone slots) fun _ => h.freeLink.judgePoll

theorem leads_miss (h : SharesFollowStates s) : Leads (execSpotLinkMiss s) := by
  unfold execSpotLinkMiss
  split
  · exact leads_next h
  · split
    · exact leads_next h
    · exact leads_if (h.freeLink.missed ..) fun _ => h.freeLink.judgePollIf _

theorem leads_proofStep (h : SharesFollowStates s) : Leads (execProofStepTimerExpiry s) := by
  unfold execProofStepTimerExpiry
  refine leads_if h fun _ => ?_
  have advanced : SharesFollowStates { s with proof := { s.proof with
      stepTimer := .seconds s.siding.config.proofStep, cursor := nextValve s.proof.cursor } } := h.of_apart rfl rfl rfl
  exact ite (advanced.startStroke ..) advanced

theorem leads_strokeTimer (h : SharesFollowStates s) : Leads (execStrokeTimerExpiry s) := by
  unfold execStrokeTimerExpiry
  split
  · exact leads_next h
  · exact leads_if h fun _ => (h.on.setProofRecord _ _).all.endStroke ..

/-- Every command keeps the invariant, where a place on the wait list means a full queue (R174). -/
theorem leads_exec (h : SharesFollowStates s) (waitOnlyWhenFull : s.tickets.wait ≠ [] → s.tickets.queue.length = 16)
    (c : Instr) : Leads (exec c s) := by
  have line (l : LineUnit) : SharesFollowStates (s.setLine l) := (h.on.setLine l).all
  cases c with
  | powerOnReset pins => exact leads_next (powerOn ..)
  | lineByteReceived b => exact leads_next (line _)
  | lineFramingError => exact leads_next (line _)
  | gapTimerExpiry => exact leads_next (line _)
  | replyLastByteSent => exact leads_next (line _)
  | unsupportedRequest code tag body => exact h.leads_unsupported code tag body
  | carAdd tag body => exact leads_next (h.serve (h.addCar body))
  | carWithdraw tag body => exact leads_next (h.serve (h.withdrawCar body))
  | carMove tag body => exact leads_next (h.serve (h.moveCar body))
  | carList tag body => exact leads_next (h.of_answered rfl)
  | spotAssign tag body => exact leads_next (h.serve (h.forSpot (h.assign body)))
  | spotRelease tag body => exact leads_next (h.serve (h.forSpot h.release))
  | spotStart tag body => exact leads_next (h.serve (h.forSpot (h.start body)))
  | spotHold tag body => exact leads_next (h.serve (h.forSpot h.hold))
  | spotResume tag body => exact leads_next (h.serve (h.forSpot h.resume))
  | spotStop tag body => exact leads_next (h.serve (h.forSpot h.stop))
  | spotReset tag body => exact leads_next (h.serve (h.forSpot h.resetTrip))
  | spotOverride tag body => exact leads_next (h.serve (h.forSpot (h.overrideBypass body)))
  | spotConfig tag body => exact leads_next (h.serve (h.forSpot (h.configure body)))
  | spotsRead tag body => exact leads_next (h.of_answered (state_readSpots body))
  | gradeLoad tag body => exact leads_next (h.serve (h.loadGrade body))
  | gradeRead tag body => exact leads_next (h.of_answered (state_readGrade body))
  | sidingConfig tag body => exact leads_next (h.serve (h.configureSiding body))
  | sidingMode tag body => exact leads_next (h.serve (h.setMode body))
  | proofRequest tag body => exact leads_next (h.serve (h.requestProof body))
  | proofRead tag body => exact leads_next (h.of_answered rfl)
  | ticketRead tag body => exact leads_next (h.of_answered state_readTicket)
  | ticketRelease tag body => exact leads_next (h.serve (h.releaseTicket body))
  | status tag body => exact leads_next (h.of_answered rfl)
  | restart tag body => exact leads_next (h.serve (h.takeRestart waitOnlyWhenFull))
  | sidingStopActive => exact h.leads_sidingStop
  | sidingStopClear => exact leads_next (h.on.setSiding _).all
  | compressorFaultActive => exact h.leads_compressorFault
  | compressorFaultClear => exact leads_if h fun _ => (h.on.setSiding _).all.examine
  | compressorRunChange level => exact leads_next (h.on.setSiding _).all
  | attentionLineActive level => exact leads_next ((h.setLink _).judgePollIf _)
  | settleTimerExpiry n => exact leads_if h h.settled
  | windowTimerExpiry n => exact h.leads_windowTimer n
  | transferLimitExpiry n => exact h.leads_transferLimit n
  | stripTimerExpiry n => exact h.leads_stripTimer n
  | purgeTimerExpiry n => exact h.leads_purgeTimer n
  | travelTimerExpiry n side => exact h.leads_travelTimer n side
  | spacingTimerExpiry =>
    exact leads_if h fun _ => (h.setComp (c := { s.comp with spacing := .stopped })
      (h.comp.congr rfl rfl rfl rfl rfl rfl rfl) rfl rfl rfl).examine
  | changeoverTimerExpiry => exact leads_if h h.completeChangeover
  | ageTimerExpiry => exact leads_if h fun _ => h.setComp (h.comp.congr rfl rfl rfl rfl rfl rfl rfl) rfl rfl rfl
  | hourTimerExpiry => exact leads_if h fun _ => h.of_apart rfl rfl rfl
  | proofStepTimerExpiry => exact h.leads_proofStep
  | strokeTimerExpiry => exact h.leads_strokeTimer
  | holdOffExpiry n kind => exact leads_if h fun _ => h.setLink _
  | pollHoldOffExpiry => exact leads_if h fun _ => (h.setLink _).judgePoll
  | recoveryTimerExpiry n => exact leads_if h fun _ => (h.onStation n _).queueInit n
  | transactionSend => exact leads_next (h.setLink _)
  | spotLinkMiss => exact h.leads_miss
  | initializeReply frame => exact leads_next (h.takeReply _ _ fun _ old n f r ht => ht.initReplied old n f r)
  | closeReply frame => exact leads_next (h.takeReply _ _ fun _ old n f r ht => ht.closeReplied old n f r)
  | valveOpenReply frame => exact leads_next (h.takeReply _ _ fun _ old n f r ht => ht.openReplied old n f r)
  | sampleReadReply frame => exact leads_next (h.takeReply _ _ fun _ old n f r ht => ht.sampleReplied old n f r)
  | countAckReply frame => exact leads_next (h.takeReply _ _ fun _ old n f r ht => ht.ackReplied old n f r)
  | strokeReply frame => exact leads_next (h.takeReply _ _ fun _ old n f r ht => ht.strokeReplied old n f r)
  | clearReply frame => exact leads_next (h.takeReply _ _ fun _ old n f r ht => ht.clearReplied old n f r)
  | attentionPollComplete slots => exact h.leads_poll slots

/-- A step takes the front command, an event owed, or 1 ms. -/
theorem leads_step (h : SharesFollowStates s) (waitOnlyWhenFull : s.tickets.wait ≠ [] → s.tickets.queue.length = 16) :
    Leads (step s) := by
  unfold step
  split
  · rename_i c rest _
    exact leads_exec (s := { s with pending := rest }) (h.of_apart rfl rfl rfl) waitOnlyWhenFull c
  · unfold State.idle
    split
    · exact leads_next h.tick
    · exact h.leads_exec waitOnlyWhenFull _
    · exact leads_exec (s := { s with choices := s.choices + 1 }) (h.of_apart rfl rfl rfl) waitOnlyWhenFull _

end SharesFollowStates

/-- Settles O59: the invariant is kept by each command, by the choice among events owed, and by the passing of 1 ms. -/
theorem sharesFollowStatesAtEveryStep : Obligations.SharesFollowStatesAtEveryStep :=
  fun _ t capacities shares stepped => shares.leads_step capacities.waitOnlyWhenFull t stepped

end Sys2Proof.Machine
end

section
/-! SUPPORT. The requests of the spot sequencers (chapter 1): which states take them, assignment and release, start, hold,
resume and stop, override and configuration. Each verdict is judged by its owner's own lemmas, and `exec_owned` takes
it to the reply. -/

namespace Sys2Proof.Machine

/-! ## From an owner's verdict to the reply -/

namespace State

variable {s u : State} {code tag : Byte} {body : List Byte} {length : Nat} {owner : State → Verdict}
  {sequencer : SpotNo → State → Verdict} {c : Instr} {n : SpotNo} {status : Status} {result : List Byte}

theorem serve_eq (len : body.length = length) (verdict : owner s = ⟨status, result, u⟩) :
    s.serve code tag body length owner = u.answer code tag status result := by
  unfold serve
  rw [if_pos len, verdict]

theorem forSpot_eq (place : num1 body 0 = n.val) : s.forSpot body sequencer = sequencer n s := by
  have named : spotOf (num1 body 0) = some n := by
    rw [place]
    exact dif_pos n.isLt
  unfold forSpot
  rw [named]

theorem forSpot_none (place : 5 < num1 body 0) : s.forSpot body sequencer = s.refuse .range := by
  have unnamed : spotOf (num1 body 0) = none := dif_neg (by omega)
  unfold forSpot
  rw [unnamed]

/-- A request of the right length is answered with its owner's verdict (R186, R187). -/
theorem exec_owned (request : exec c s = .next (s.serve code tag body length owner)) (len : body.length = length)
    (verdict : owner s = ⟨status, result, u⟩) : exec c s = .next (u.answer code tag status result) := by
  rw [request, serve_eq len verdict]

/-- A spot request is answered with the verdict of the sequencer of the spot it names (R4). -/
theorem exec_named (request : exec c s = .next (s.serve code tag body length (State.forSpot body sequencer)))
    (len : body.length = length) (place : num1 body 0 = n.val) (verdict : sequencer n s = ⟨status, result, u⟩) :
    exec c s = .next (u.answer code tag status result) :=
  exec_owned request len ((forSpot_eq place).trans verdict)

/-- A spot number above 5 names no spot (R4). -/
theorem exec_unnamed (request : exec c s = .next (s.serve code tag body length (State.forSpot body sequencer)))
    (len : body.length = length) (place : 5 < num1 body 0) : exec c s = .next (s.answer code tag .range []) :=
  exec_owned request len (forSpot_none place)

end State

/-- The byte of a spot number names the spot. -/
theorem num1_spot (n : SpotNo) (rest : List Byte) : num1 (BitVec.ofNat 8 n.val :: rest) 0 = n.val := by
  have := n.isLt
  show (BitVec.ofNat 8 n.val).toNat = n.val
  rw [BitVec.toNat_ofNat]
  omega

/-! ## Which states take a request (R4) -/

namespace State

variable (s : State) {n : SpotNo} (body : List Byte)

theorem assign_busy (state : (s.spot n).state ≠ .vacant) : State.assign body n s = s.refuse .busy := by
  simp [State.assign, state]

theorem release_empty (state : (s.spot n).state = .vacant) : State.release n s = s.refuse .empty := by
  simp [State.release, state]

theorem release_busy (state : (s.spot n).state ∉ [SpotState.vacant, .assigned, .connected, .ready]) :
    State.release n s = s.refuse .busy := by
  unfold State.release
  cases h : (s.spot n).state <;> simp_all [SpotState.releasable]

theorem start_busy (state : (s.spot n).state ≠ .ready) : State.start body n s = s.refuse .busy := by
  simp [State.start, state]

theorem hold_busy (state : (s.spot n).state ∉ [SpotState.startWait, .transfer, .stripWait, .strip, .held]) :
    State.hold n s = s.refuse .busy := by
  unfold State.hold
  cases h : (s.spot n).state <;> simp_all [SpotState.holdable]

theorem hold_held (state : (s.spot n).state = .held) : State.hold n s = ⟨.ok, [], s⟩ := by
  simp [State.hold, state, SpotState.holdable]

theorem resume_busy (state : (s.spot n).state ≠ .held) : State.resume n s = s.refuse .busy := by
  simp [State.resume, state]

theorem stop_busy (state : (s.spot n).state ∉ [SpotState.startWait, .transfer, .stripWait, .strip, .held, .purge]) :
    State.stop n s = s.refuse .busy := by
  unfold State.stop
  cases h : (s.spot n).state <;> simp_all

theorem stop_purge (state : (s.spot n).state = .purge) : State.stop n s = ⟨.ok, [], s⟩ := by
  simp [State.stop, state]

theorem resetTrip_busy (state : (s.spot n).state ≠ .tripped) : State.resetTrip n s = s.refuse .busy := by
  simp [State.resetTrip, state]

theorem overrideBypass_busy (state : (s.spot n).state ∈ [SpotState.vacant, .ticketWait, .complete]) :
    State.overrideBypass body n s = s.refuse .busy := by
  unfold State.overrideBypass
  cases h : (s.spot n).state <;> simp_all [SpotState.noOverride]

theorem configure_busy (state : (s.spot n).state ≠ .vacant) : State.configure body n s = s.refuse .busy := by
  simp [State.configure, state]

end State

/-- Settles O14: each of the nine requests reaches its sequencer, whose first check is the state. -/
theorem spotRequestsByState : Obligations.SpotRequestsByState := by
  unfold Obligations.SpotRequestsByState
  intro tag s row member body len
  simp only [List.mem_cons, List.not_mem_nil, or_false] at member
  rcases member with rfl | rfl | rfl | rfl | rfl | rfl | rfl | rfl | rfl
  · refine ⟨State.exec_unnamed rfl len, fun n place => ⟨fun refused => State.exec_named rfl len place ?_,
      by simp, by simp⟩⟩
    · exact s.assign_busy body (by simpa using refused)
  · refine ⟨State.exec_unnamed rfl len, fun n place => ⟨fun refused => State.exec_named rfl len place ?_,
      fun _ vacant => ?_, by simp⟩⟩
    · exact s.release_busy (by simpa using refused)
    · exact State.exec_named rfl len place (s.release_empty vacant)
  · refine ⟨State.exec_unnamed rfl len, fun n place => ⟨fun refused => State.exec_named rfl len place ?_,
      by simp, by simp⟩⟩
    · exact s.start_busy body (by simpa using refused)
  · refine ⟨State.exec_unnamed rfl len, fun n place => ⟨fun refused => State.exec_named rfl len place ?_, by simp,
      fun same => State.exec_named rfl len place ?_⟩⟩
    · exact s.hold_busy (by simpa using refused)
    · exact s.hold_held (by simpa using same)
  · refine ⟨State.exec_unnamed rfl len, fun n place => ⟨fun refused => State.exec_named rfl len place ?_,
      by simp, by simp⟩⟩
    · exact s.resume_busy (by simpa using refused)
  · refine ⟨State.exec_unnamed rfl len, fun n place => ⟨fun refused => State.exec_named rfl len place ?_, by simp,
      fun same => State.exec_named rfl len place ?_⟩⟩
    · exact s.stop_busy (by simpa using refused)
    · exact s.stop_purge (by simpa using same)
  · refine ⟨State.exec_unnamed rfl len, fun n place => ⟨fun refused => State.exec_named rfl len place ?_,
      by simp, by simp⟩⟩
    · exact s.resetTrip_busy (by simpa using refused)
  · refine ⟨State.exec_unnamed rfl len, fun n place => ⟨fun refused => State.exec_named rfl len place ?_,
      by simp, by simp⟩⟩
    · exact s.overrideBypass_busy body (by simpa using refused)
  · refine ⟨State.exec_unnamed rfl len, fun n place => ⟨fun refused => State.exec_named rfl len place ?_,
      by simp, by simp⟩⟩
    · exact s.configure_busy body (by simpa using refused)

/-! ## The selection on assignment (R41, R42) -/

section
variable {m before after : List CarRecord} {c : CarRecord} {n : SpotNo} {id chars : List Byte}

theorem admits_iff : c.admits n = true ↔ ∀ set, c.spotSet = some set → n ∈ set := by
  unfold CarRecord.admits
  cases c.spotSet <;> simp

theorem not_admits_iff : c.admits n = false ↔ ∃ set, c.spotSet = some set ∧ n ∉ set := by
  unfold CarRecord.admits
  cases c.spotSet <;> simp

/-- The first record with a property is found at its place. -/
theorem findIdx?_first {p : CarRecord → Bool} (here : p c = true) (earlier : ∀ d ∈ before, p d = false) :
    ((before ++ c :: after).findIdx? p).bind (fun k => ((before ++ c :: after)[k]?).map fun d => (k, d)) =
      some (before.length, c) := by
  have found : (before ++ c :: after).findIdx? p = some before.length := by
    rw [List.findIdx?_append, List.findIdx?_eq_none_iff.mpr earlier, List.findIdx?_cons, here]
    simp
  simp [found]

theorem selectNext_none (none : ∀ c ∈ m, ∃ set, c.spotSet = some set ∧ n ∉ set) : selectNext m n = .error .empty := by
  have found : m.findIdx? (fun c => c.admits n) = Option.none :=
    List.findIdx?_eq_none_iff.mpr fun c hc => not_admits_iff.mpr (none c hc)
  simp [selectNext, found]

theorem selectNext_first (here : c.admits n = true) (earlier : ∀ d ∈ before, d.admits n = false) :
    selectNext (before ++ c :: after) n = .ok (before.length, c) := by
  unfold selectNext
  rw [findIdx?_first here earlier]

theorem selectById_unknown (none : ∀ c ∈ m, c.carId ≠ chars) : selectById m n (some chars) = .error .unknown := by
  have found : carPosition m chars = Option.none := List.findIdx?_eq_none_iff.mpr fun c hc => by simpa using none c hc
  simp [selectById, found]

/-- The record with the id is taken where it admits the spot, and refused RANGE where it does not (R42). -/
theorem selectById_first (here : c.carId = chars) (earlier : ∀ d ∈ before, d.carId ≠ chars) :
    selectById (before ++ c :: after) n (some chars) =
      if c.admits n then .ok (before.length, c) else .error .range := by
  unfold selectById carPosition
  dsimp only
  rw [findIdx?_first (by simpa using here) fun d hd => by simpa using earlier d hd]

end

/-! ## SPOT_ASSIGN (R5) -/

section
variable {s : State} {n : SpotNo} {selector : Byte} {id : List Byte}

theorem exec_spotAssign {u : State} {tag : Byte} {status : Status} {result : List Byte} (len : id.length = 13)
    (verdict : State.assign (BitVec.ofNat 8 n.val :: selector :: id) n s = ⟨status, result, u⟩) :
    exec (.spotAssign tag (BitVec.ofNat 8 n.val :: selector :: id)) s = .next (u.answer 0x05 tag status result) :=
  State.exec_named rfl (by simp [len]) (num1_spot n _) verdict

/-- The checks before the selection passed, the selection is what SPOT_ASSIGN turns on (R5). -/
theorem assign_of_checks (vacant : (s.spot n).state = .vacant) (one : selector.toNat ≤ 1)
    (present : (s.spot n).config.present = true) (atRest : s.strokeOn n = false)
    (reached : (s.station n).status ≠ .lost) :
    State.assign (BitVec.ofNat 8 n.val :: selector :: id) n s =
      match s.selectCar (BitVec.ofNat 8 n.val :: selector :: id) n with
      | .error status => s.refuse status
      | .ok (p, c) =>
        ⟨.ok, byte1 ((s.bindCar n p c).spot n).state.code :: c.bytes, s.bindCar n p c⟩ := by
  have sel : num1 (BitVec.ofNat 8 n.val :: selector :: id) 1 = selector.toNat := rfl
  unfold State.assign
  cases s.selectCar (BitVec.ofNat 8 n.val :: selector :: id) n <;>
    simp [vacant, sel, Nat.not_lt.mpr one, present, atRest, reached]

theorem selectCar_next : s.selectCar (BitVec.ofNat 8 n.val :: 0 :: id) n = selectNext s.manifest n := rfl

theorem selectCar_id : s.selectCar (BitVec.ofNat 8 n.val :: 1 :: id) n = selectById s.manifest n (readCarId id 0) := rfl

end

/-- Settles O15: each check is reached where those before it passed. -/
theorem spotAssignChecksInOrder : Obligations.SpotAssignChecksInOrder := by
  unfold Obligations.SpotAssignChecksInOrder
  intro tag selector id n s len vacant
  have sel : num1 (BitVec.ofNat 8 n.val :: selector :: id) 1 = selector.toNat := rfl
  refine ⟨fun big => exec_spotAssign len ?_, fun one => ⟨fun absent => exec_spotAssign len ?_, fun present =>
    ⟨fun stroke => exec_spotAssign len ?_, fun atRest => ⟨fun lost => exec_spotAssign len ?_, fun reached => ?_⟩⟩⟩⟩
  · simp [State.assign, vacant, sel, big, State.refuse]
  · simp [State.assign, vacant, sel, Nat.not_lt.mpr one, absent, State.refuse]
  · simp [State.assign, vacant, sel, Nat.not_lt.mpr one, present, stroke, State.refuse]
  · simp [State.assign, vacant, sel, Nat.not_lt.mpr one, present, atRest, lost, State.refuse]
  · have checked := assign_of_checks (id := id) vacant one present atRest reached
    refine ⟨?_, ?_⟩
    · rintro rfl none
      refine exec_spotAssign len ?_
      rw [checked, selectCar_next, selectNext_none none]
      rfl
    · rintro rfl
      refine ⟨fun unread => exec_spotAssign len ?_, fun chars read => ⟨fun none => exec_spotAssign len ?_, ?_⟩⟩
      · rw [checked, selectCar_id, unread]
        rfl
      · rw [checked, selectCar_id, read, selectById_unknown none]
        rfl
      · intro before c after set place here earlier bound outside
        refine exec_spotAssign len ?_
        rw [checked, selectCar_id, read, place, selectById_first here earlier,
          not_admits_iff.mpr ⟨set, bound, outside⟩]
        rfl

/-- The level causes present at a spot with ARMS and BOND true and its station not LOST (R107, R109). -/
theorem levelsPresent_of_connected {s : State} {n : SpotNo} (arms : (s.station n).inputs.arms = true)
    (bond : (s.station n).inputs.bond = true) (reached : (s.station n).status ≠ .lost) :
    s.levelsPresent n =
      (if (s.station n).inputs.esd then [.esd] else []) ++ (if (s.station n).inputs.gas then [.gas] else [])
        ++ (if s.siding.stopActive then [.sidingStop] else [])
        ++ (if (s.station n).status = .localOp then [.stationLocal] else []) := by
  have lost : ((s.station n).status == .lost) = false := by simpa using reached
  unfold State.levelsPresent TripCause.all
  simp only [List.filter_cons, List.filter_nil, TripCause.isLevel, State.causePresent, State.levelCondition, arms, bond,
    lost, Bool.not_true, Bool.false_and, Bool.and_false, Bool.true_and, Bool.false_eq_true, if_false, beq_iff_eq]
  cases (s.station n).inputs.esd <;> cases (s.station n).inputs.gas <;> cases s.siding.stopActive <;>
    by_cases h : (s.station n).status = .localOp <;> simp [h]

/-- Where ARMS and BOND are true an ASSIGNED spot goes to CONNECTED, and trips on the level causes present (R6, R109). -/
theorem moveOnInputs_connects {s : State} {n : SpotNo} (state : (s.spot n).state = .assigned)
    (arms : (s.station n).inputs.arms = true) (bond : (s.station n).inputs.bond = true) :
    s.moveOnInputs n = (s.setSpot n (s.spot n).toConnected).trip n (s.levelsPresent n) := by
  have levels := s.levelsPresent_toConnected n
  unfold State.moveOnInputs State.connect State.takeCauses
  simp only [state, arms, bond, Bool.and_self, if_true, State.onSpot_eq, State.spot_setSpot_self]
  rw [levels]
  rfl

theorem moveOnInputs_waits {s : State} {n : SpotNo} (state : (s.spot n).state = .assigned)
    (waits : ((s.station n).inputs.arms && (s.station n).inputs.bond) = false) : s.moveOnInputs n = s := by
  unfold State.moveOnInputs
  simp only [state, waits, Bool.false_eq_true, if_false]

/-- Settles O16: the selection finds the record, and the inputs move the bound spot on. -/
theorem spotAssignBinds : Obligations.SpotAssignBinds := by
  unfold Obligations.SpotAssignBinds
  intro tag selector id n s before after c len vacant present atRest reached place admits selected x bound metered assigned
    connected causes
  have here : c.admits n = true := admits_iff.mpr admits
  have one : selector.toNat ≤ 1 := by
    rcases selected with ⟨rfl, -⟩ | ⟨rfl, -⟩ <;> decide
  have found : s.selectCar (BitVec.ofNat 8 n.val :: selector :: id) n = .ok (before.length, c) := by
    rcases selected with ⟨rfl, earlier⟩ | ⟨rfl, read, earlier⟩
    · rw [selectCar_next, place, selectNext_first here fun d hd => not_admits_iff.mpr (earlier d hd)]
    · rw [selectCar_id, place, read, selectById_first rfl earlier, if_pos here]
  have erased : s.manifest.eraseIdx before.length = before ++ after := by
    rw [place, List.eraseIdx_append_of_length_le le_rfl, Nat.sub_self, List.eraseIdx_cons_zero]
  have record : (s.spot n).onAssign c = bound := by
    unfold SpotRecord.onAssign
    rw [Nat.mul_comm]
  have binds : s.bindCar n before.length c = (assigned.setSpot n bound).moveOnInputs n := by
    show (((s.setManifest (s.manifest.eraseIdx before.length)).onMeter n Meter.onAssign).setSpot n
      ((s.spot n).onAssign c)).moveOnInputs n = _
    rw [erased, record]
    rfl
  have verdict {u : State} {code : Nat} (moved : (assigned.setSpot n bound).moveOnInputs n = u)
      (state : (u.spot n).state.code = code) :
      exec (.spotAssign tag (BitVec.ofNat 8 n.val :: selector :: id)) s =
        .next (u.answer 0x05 tag .ok (byte1 code :: c.bytes)) := by
    refine exec_spotAssign len ?_
    rw [assign_of_checks vacant one present atRest reached, found]
    dsimp only
    rw [binds, moved, state]
  have state : ((assigned.setSpot n bound).spot n).state = .assigned := by rw [State.spot_setSpot_self]
  have goesOn (ready : (x.arms && x.bond) = true) : (assigned.setSpot n bound).levelsPresent n = causes
      ∧ (assigned.setSpot n bound).moveOnInputs n = (assigned.setSpot n connected).trip n causes := by
    rw [Bool.and_eq_true] at ready
    have levels : (assigned.setSpot n bound).levelsPresent n = causes :=
      levelsPresent_of_connected ready.1 ready.2 reached
    refine ⟨levels, ?_⟩
    rw [moveOnInputs_connects state ready.1 ready.2, levels, State.spot_setSpot_self, State.setSpot_setSpot]
    rfl
  refine ⟨fun waits => verdict (moveOnInputs_waits state waits) (by rw [state]; rfl), fun ready none => ?_, ?_⟩
  · obtain ⟨-, moved⟩ := goesOn ready
    rw [none] at moved
    refine verdict moved ?_
    show (((assigned.setSpot n connected).spot n).state).code = 2
    rw [State.spot_setSpot_self]
    rfl
  · intro ready first rest some
    obtain ⟨levels, moved⟩ := goesOn ready
    have levels' : (assigned.setSpot n connected).levelsPresent n = first :: rest := by
      rw [← some, ← levels]
      have := (assigned.setSpot n bound).levelsPresent_toConnected n
      rwa [State.spot_setSpot_self, State.setSpot_setSpot] at this
    have entered := State.enters_connected _ n first rest levels'
    rw [some] at moved ⊢
    exact ⟨_, entered, verdict moved (by rw [entered.state]; rfl)⟩

/-- Settles O17: the manifest's room is the last check. -/
theorem spotReleaseReturnsTheCar : Obligations.SpotReleaseReturnsTheCar := by
  unfold Obligations.SpotReleaseReturnsTheCar
  intro tag n c s state car
  have releasable : ((s.spot n).state == .vacant) = false ∧ (s.spot n).state.releasable = true := by
    simp only [List.mem_cons, List.not_mem_nil, or_false] at state
    rcases state with h | h | h <;> rw [h] <;> decide
  refine ⟨fun full => State.exec_named rfl rfl (num1_spot n _) ?_, fun room => State.exec_named rfl rfl (num1_spot n _) ?_⟩
  · simp [State.release, releasable, manifestCapacity, full, State.refuse]
  · simp [State.release, releasable, manifestCapacity, Nat.not_le.mpr room, car, byte1]
    rfl

end Sys2Proof.Machine
end

section
/-! SUPPORT. Permissives and trip causes; SPOT_START, SPOT_HOLD, SPOT_RESUME, SPOT_STOP and SPOT_OVERRIDE (chapter 1). -/

namespace Sys2Proof.Machine

/-! ## Sets of positions (R191) -/

/-- Bit `i` of a list of bits, least significant first. -/
theorem testBit_ofBits (l : List Bool) (i : Nat) : (ofBits l).testBit i = l.getD i false := by
  induction l generalizing i with
  | nil => simp [ofBits]
  | cons b l ih =>
    cases i with
    | zero => cases b <;> simp [ofBits, bitOf, Nat.testBit_zero]
    | succ i =>
      have half : (bitOf b + 2 * ofBits l) / 2 = ofBits l := by
        cases b
        · simp [bitOf]
        · simp only [bitOf, if_true]; omega
      rw [ofBits, Nat.testBit_succ, half, ih]
      rfl

theorem ofBits_lt (l : List Bool) : ofBits l < 2 ^ l.length := by
  induction l with
  | nil => simp [ofBits]
  | cons b l ih =>
    rw [ofBits, List.length_cons, pow_succ]
    have : bitOf b ≤ 1 := by cases b <;> decide
    omega

theorem num2_leBytes {v : Nat} (small : v < 65536) : num2 (leBytes 2 v) 0 = v := by
  show (BitVec.ofNat 8 v).toNat + 256 * (BitVec.ofNat 8 (v / 256)).toNat = v
  rw [BitVec.toNat_ofNat, BitVec.toNat_ofNat]
  omega

/-- A permissive stands in the set bytes at its position (R9, R191). -/
theorem testBit_permissiveSetBytes (p : Permissive) (set : List Permissive) :
    (num2 (permissiveSetBytes set) 0).testBit p.position = decide (p ∈ set) := by
  have small : ofBits (Permissive.all.map set.contains) < 2 ^ 11 := ofBits_lt _
  rw [permissiveSetBytes, num2_leBytes (by omega), testBit_ofBits]
  cases p <;> simp [Permissive.all, Permissive.position]

/-! ## Permissives and causes (R9, R107) -/

section
variable (s : State) (n : SpotNo)

/-- The two valves of a spot (00_scope 4.1). -/
theorem forall_valves {P : ValveIndex → Prop} :
    (∀ v : ValveIndex, v.val / 2 = n.val → P v) ↔ P (valveIndex n .liquid) ∧ P (valveIndex n .vapour) := by
  constructor
  · intro all
    exact ⟨all _ (by simp [valveIndex]), all _ (by simp [valveIndex]; omega)⟩
  · rintro ⟨liquid, vapour⟩ v of
    rcases Nat.mod_two_eq_zero_or_one v.val with even | odd
    · rwa [show v = valveIndex n .liquid from Fin.ext (by simp [valveIndex]; omega)]
    · rwa [show v = valveIndex n .vapour from Fin.ext (by simp [valveIndex]; omega)]

theorem carGrade_eq_some {g : Grade} :
    s.carGrade n = some g ↔ ∃ c, (s.spot n).car = some c ∧ s.grade c.grade = some g := by
  unfold State.carGrade
  cases (s.spot n).car <;> simp

theorem strokeOn_iff : s.strokeOn n = true ↔ ∃ k, s.proof.stroke = some k ∧ k.valve.val / 2 = n.val := by
  unfold State.strokeOn valveSpot
  cases s.proof.stroke <;> simp [Fin.ext_iff]

theorem permissive_carPressure : s.permissive n .carPressure = true ↔ ∃ c g, (s.spot n).car = some c
    ∧ s.grade c.grade = some g ∧ (s.meter n).heldCarPressure ≤ g.maxPressure := by
  have judged : s.permissive n .carPressure = true ↔
      ∃ g, s.carGrade n = some g ∧ (s.meter n).heldCarPressure ≤ g.maxPressure := by
    unfold State.permissive
    cases s.carGrade n <;> simp
  simp only [judged, carGrade_eq_some]
  constructor
  · rintro ⟨g, ⟨c, car, grade⟩, le⟩
    exact ⟨c, g, car, grade, le⟩
  · rintro ⟨c, g, car, grade, le⟩
    exact ⟨g, ⟨c, car, grade⟩, le⟩

theorem permissive_gradeLoaded : s.permissive n .gradeLoaded = true ↔ ∃ c g, (s.spot n).car = some c
    ∧ s.grade c.grade = some g := by
  show (s.carGrade n).isSome = true ↔ _
  simp only [Option.isSome_iff_exists, carGrade_eq_some]
  exact exists_comm

theorem permissive_valvesAtRest : s.permissive n .valvesAtRest = true ↔
    ∀ k, s.proof.stroke = some k → k.valve.val / 2 ≠ n.val := by
  show (!s.strokeOn n) = true ↔ _
  rw [Bool.not_eq_true', ← Bool.not_eq_true, strokeOn_iff]
  simp

theorem metered_iff : s.metered n = true ↔ 0 < (s.meter n).windowsCounted ∨ (s.spot n).endReason ≠ none := by
  simp [State.metered, Option.isSome_iff_ne_none]

theorem closeUnconfirmed_iff (r : SpotRecord) (side : ValveSide) :
    r.closeUnconfirmed side = true ↔ r.valve side = .closing ∧ r.travel side = .stopped := by
  unfold SpotRecord.closeUnconfirmed
  cases r.travel side <;> simp

end

/-- Settles O18: line by line of R9's and R107's tables. -/
theorem permissivesAndTripCauses : Obligations.PermissivesAndTripCauses := by
  refine ⟨fun s n => ⟨Iff.rfl, Iff.rfl, beq_iff_eq, Bool.not_eq_true' _ ▸ Iff.rfl, Bool.not_eq_true' _ ▸ Iff.rfl, ?_, ?_,
    permissive_carPressure s n, permissive_gradeLoaded s n, ?_, permissive_valvesAtRest s n, rfl,
    fun p set => ⟨rfl, testBit_permissiveSetBytes p set⟩⟩, fun s n => ⟨Iff.rfl, Iff.rfl, Iff.rfl, ?_, ?_, beq_iff_eq,
    beq_iff_eq, ?_, rfl, rfl, Bool.not_eq_true' _ ▸ Iff.rfl, Bool.not_eq_true' _ ▸ Iff.rfl, ?_, ?_, rfl⟩⟩
  · rw [forall_valves]
    simp [State.permissive]
  · rw [forall_valves]
    simp [State.permissive]
  · simp [State.permissive]
  · rw [← metered_iff]
    simp [State.causePresent]
  · rw [← metered_iff]
    simp [State.causePresent]
  · simp only [State.causePresent, Bool.or_eq_true, closeUnconfirmed_iff]
    rfl
  · simp [State.causePresent]
  · simp [State.levelCondition]

/-! ## SPOT_START (R11) -/

/-- The failing permissives: false, and not bypassed (R10, R11). -/
theorem failing_eq (s : State) (n : SpotNo) : s.failing n = Permissive.all.filter fun p => !s.permissive n p
    && !((p == .proofCurrent && (s.spot n).bypass.proofCurrent)
      || (p == .carPressure && (s.spot n).bypass.carPressure)) := by
  unfold State.failing
  congr 1
  funext p
  have apart : (Permissive.proofCurrent == .carPressure) = false ∧ (Permissive.carPressure == .proofCurrent) = false :=
    ⟨rfl, rfl⟩
  cases p <;> simp [Bypass.has, apart]

/-- Settles O19: the strip option, then the permissives, then the entry to START_WAIT. -/
theorem spotStartJudgesPermissives : Obligations.SpotStartJudgesPermissives := by
  unfold Obligations.SpotStartJudgesPermissives
  intro tag option n s ready b failing
  have failed : s.failing n = failing := failing_eq s n
  have opt : num1 [BitVec.ofNat 8 n.val, option] 1 = option.toNat := rfl
  refine ⟨fun big => State.exec_named rfl rfl (num1_spot n _) ?_, fun one some => State.exec_named rfl rfl (num1_spot n _) ?_,
    fun one none => State.exec_named rfl rfl (num1_spot n _) ?_⟩
  · simp [State.start, ready, opt, big, State.refuse]
  · simp [State.start, ready, opt, Nat.not_lt.mpr one, failed, some, State.refuse]
  · simp only [State.start, ready, opt, Nat.not_lt.mpr one, failed, none, bne_self_eq_false, Bool.false_eq_true, if_false,
      List.isEmpty_nil, Bool.not_true, State.enterStartWait, State.onSpot_eq, State.setSpot_setSpot,
      State.spot_setSpot_self, Bool.or_assoc, Bypass.nonEmpty]
    rfl

/-! ## SPOT_HOLD, SPOT_RESUME and SPOT_STOP (R19 to R21) -/

section
variable {s u : State} {n : SpotNo}

theorem hold_enters (state : (s.spot n).state ∈ [SpotState.startWait, .transfer, .stripWait, .strip]) :
    State.hold n s = ⟨.ok, [], s.enterHeld n .operator⟩ := by
  have holdable : (s.spot n).state.holdable = true := by
    simp only [List.mem_cons, List.not_mem_nil, or_false] at state
    rcases state with h | h | h | h <;> rw [h] <;> rfl
  unfold State.hold
  rw [if_pos holdable]

/-- The two conditions that refuse SPOT_RESUME, as a byte (R21, R119). -/
theorem resumeBits (shut fault : Bool) :
    byte1 (ofBits [shut, fault]) = BitVec.ofNat 8 ((if shut then 1 else 0) + (if fault then 2 else 0)) := by
  revert shut fault
  decide

/-- Settles O20: a spot that can be held enters HELD; RESUME is refused by what freezes grants, and else the
spot goes back to its queue. -/
theorem spotHoldAndResume : Obligations.SpotHoldAndResume := by
  refine ⟨fun tag n s state => ⟨_, s.enters_enterHeld n .operator, State.exec_named rfl rfl (num1_spot n _)
    (hold_enters state)⟩, fun tag n s held => ⟨fun refused => State.exec_named rfl rfl (num1_spot n _) ?_,
    fun unshut fault => ⟨fun phase => State.exec_named rfl rfl (num1_spot n _) ?_,
      fun phase => State.exec_named rfl rfl (num1_spot n _) ?_⟩⟩⟩
  · have bits := resumeBits (s.siding.mode == .shut) s.siding.faultActive
    simp only [beq_iff_eq] at bits
    simp [State.resume, held, refused, bits, State.refuse]
  · simp [State.resume, held, unshut, fault, phase, State.enterStartWait, State.setSpot_setSpot, SpotRecord.leaveHeld]
    rfl
  · simp [State.resume, held, unshut, fault, phase, State.resumeStripWait, State.setSpot_setSpot, SpotRecord.leaveHeld]
    rfl

/-- An entry to PURGE does not touch resume_phase and hold_reason (R22). -/
theorem hold_enterPurge (reason : Option EndReason) :
    ((s.enterPurge n reason).spot n).resumePhase = (s.spot n).resumePhase
      ∧ ((s.enterPurge n reason).spot n).holdReason = (s.spot n).holdReason := by
  rw [s.spot_enterPurge n reason, State.purgedRecord]
  split <;> exact ⟨rfl, rfl⟩

/-- An entry to PURGE from a record in which resume_phase and hold_reason were cleared (R19, R22). -/
theorem EntersPurge.of_leaveHeld {reason : Option EndReason}
    (h : EntersPurge (s.setSpot n (s.spot n).leaveHeld) u n reason) : EntersPurge s u n reason := by
  have own : (s.setSpot n (s.spot n).leaveHeld).spot n = (s.spot n).leaveHeld := s.spot_setSpot_self n _
  have valves : ClosesValves s u n := State.ClosesValves.of_record s n h.valves (by rw [own]; rfl) (by rw [own]; rfl)
    (by rw [own]; rfl) (by rw [own]; rfl) (by rw [own]; rfl) rfl
  refine ⟨h.state, ?_, ?_, h.expired, h.stops, valves, h.nothing, ?_, ?_, ?_, ?_, ?_, ?_, h.closing, h.closingAsked,
    h.abandoned, s.courseOf_of_setSpot n _ h.frame⟩
  · rw [h.endReason, own]; rfl
  · rw [h.purge, own]; rfl
  · rw [h.car, own]; rfl
  · rw [h.bypass, own]; rfl
  · rw [h.config, own]; rfl
  · rw [h.stripRequested, own]; rfl
  · rw [h.seqFlags, own]; rfl
  · rw [h.limit, own]; rfl

/-- SPOT_STOP of a HELD spot that goes to PURGE (R19). -/
theorem enters_stopHeld (reason : Option EndReason) :
    EntersPurge s ((s.setSpot n (s.spot n).leaveHeld).enterPurge n reason) n reason
      ∧ (((s.setSpot n (s.spot n).leaveHeld).enterPurge n reason).spot n).resumePhase = none
      ∧ (((s.setSpot n (s.spot n).leaveHeld).enterPurge n reason).spot n).holdReason = none := by
  obtain ⟨phase, hold⟩ := hold_enterPurge (s := s.setSpot n (s.spot n).leaveHeld) (n := n) reason
  rw [State.spot_setSpot_self] at phase hold
  exact ⟨.of_leaveHeld (State.enters_enterPurge _ n reason), phase, hold⟩

/-- A waiting spot that gives up its queue entry and goes to READY (R19, R99). -/
theorem goesReady (r : SpotRecord) : HoldsNothing ((s.setSpot n r).giveUp n).comp n
    ∧ CourseOf s ((s.setSpot n r).giveUp n) n ∧ ((s.setSpot n r).giveUp n).meter n = s.meter n
    ∧ ((s.setSpot n r).giveUp n).spot n = r :=
  ⟨State.nothing_giveUp .., State.courseOf_giveUp s n r (.refl _) rfl (fun _ _ => ⟨rfl, rfl⟩) (.refl ..),
    State.meter_giveUp .., (State.spot_giveUp ..).trans (s.spot_setSpot_self n r)⟩

end

/-- Settles O21: R19's table, row by row. -/
theorem spotStopByTable : Obligations.SpotStopByTable := by
  unfold Obligations.SpotStopByTable
  intro tag n s r request liquidWait
  have answered {u : State} (verdict : State.stop n s = ⟨.ok, [], u⟩) :
      exec request s = .next (u.answer 0x0A tag .ok []) := State.exec_named rfl rfl (num1_spot n _) verdict
  have heldLiquid (state : r.state = .held) (phase : r.resumePhase = some .liquid) :
      State.stop n s = ⟨.ok, [], (s.setSpot n r.leaveHeld).stopLiquid n⟩ := by
    unfold State.stop
    simp only [state, phase, r]
    rfl
  have heldStrip (state : r.state = .held) (phase : r.resumePhase = some .strip) :
      State.stop n s = ⟨.ok, [], (s.setSpot n r.leaveHeld).enterPurge n none⟩ := by
    unfold State.stop
    simp only [state, phase, r]
    rfl
  have waiting (state : r.state = .startWait) : State.stop n s = ⟨.ok, [], s.stopLiquid n⟩ := by
    simp only [State.stop, state, r]
  refine ⟨?_, ?_, ?_⟩
  · rintro (state | ⟨state, phase⟩) uncounted
    · have stopped : s.stopLiquid n = (s.setSpot n { r with state := .ready }).giveUp n := by
        simp [State.stopLiquid, uncounted, r]
      obtain ⟨nothing, course, meter, record⟩ := goesReady (s := s) (n := n) { r with state := .ready }
      refine ⟨_, answered (stopped ▸ waiting state), nothing, course, meter, ?_⟩
      rw [record]
      simp [state]
    · have stopped : (s.setSpot n r.leaveHeld).stopLiquid n =
          (s.setSpot n { r.leaveHeld with state := .ready }).giveUp n := by
        simp [State.stopLiquid, uncounted, State.setSpot_setSpot]
      obtain ⟨nothing, course, meter, record⟩ := goesReady (s := s) (n := n) { r.leaveHeld with state := .ready }
      refine ⟨_, answered (stopped ▸ heldLiquid state phase), nothing, course, meter, ?_⟩
      rw [record]
      simp [state, SpotRecord.leaveHeld]
  · rintro (⟨state | ⟨state, phase⟩, counted⟩ | state)
    · have stopped : s.stopLiquid n = s.enterPurge n (some .stopped) := by simp [State.stopLiquid, counted]
      exact ⟨_, answered (stopped ▸ waiting state), s.enters_enterPurge n _, by simp [state]⟩
    · have stopped : (s.setSpot n r.leaveHeld).stopLiquid n = (s.setSpot n r.leaveHeld).enterPurge n (some .stopped) := by
        simp [State.stopLiquid, counted]
      obtain ⟨entered, cleared⟩ := enters_stopHeld (s := s) (n := n) (some .stopped)
      exact ⟨_, answered (stopped ▸ heldLiquid state phase), entered, fun _ => cleared⟩
    · exact ⟨_, answered (by simp only [State.stop, state, r]), s.enters_enterPurge n _, by simp [state]⟩
  · rintro (state | state | ⟨state, phase⟩)
    · exact ⟨_, answered (by simp only [State.stop, state, r]), s.enters_enterPurge n _, by simp [state]⟩
    · exact ⟨_, answered (by simp only [State.stop, state, r]), s.enters_enterPurge n _, by simp [state]⟩
    · obtain ⟨entered, cleared⟩ := enters_stopHeld (s := s) (n := n) none
      exact ⟨_, answered (heldStrip state phase), entered, fun _ => cleared⟩

/-! ## SPOT_OVERRIDE (R10) -/

/-- The two bytes of a number name a position where the mask of positions has it. -/
theorem and_ne_zero_iff (v c : Nat) : (v &&& c) ≠ 0 ↔ ∃ p, v.testBit p = true ∧ c.testBit p = true := by
  constructor
  · intro ne
    obtain ⟨p, hp⟩ := Nat.exists_testBit_of_ne_zero ne
    exact ⟨p, by simpa [Nat.testBit_and] using hp⟩
  · rintro ⟨p, hv, hc⟩ zero
    have : (v &&& c).testBit p = true := by simp [Nat.testBit_and, hv, hc]
    simp [zero] at this

/-- The positions of two bytes are 0 to 15. -/
theorem lt_of_testBit {v p : Nat} (small : v < 65536) (set : v.testBit p = true) : p < 16 := by
  by_contra big
  have : v < 2 ^ p := lt_of_lt_of_le small (Nat.pow_le_pow_right (n := 2) (by decide) (show 16 ≤ p by omega))
  simp [Nat.testBit_lt_two_pow this] at set

theorem overrideOutOfRange_iff {mask value : Nat} (m : mask < 65536) (v : value < 65536) :
    overrideOutOfRange mask value = true ↔
      (∃ p, p ≠ 5 ∧ p ≠ 7 ∧ mask.testBit p = true) ∨ ∃ p, 10 < p ∧ value.testBit p = true := by
  have masked : ∀ p < 16, Nat.testBit 0xFF5F p = true ↔ p ≠ 5 ∧ p ≠ 7 := by decide
  have valued : ∀ p < 16, Nat.testBit 0xF800 p = true ↔ 10 < p := by decide
  have first : (mask &&& 0xFF5F) ≠ 0 ↔ ∃ p, p ≠ 5 ∧ p ≠ 7 ∧ mask.testBit p = true := by
    rw [and_ne_zero_iff]
    refine exists_congr fun p => ⟨fun ⟨set, hc⟩ => ?_, fun ⟨five, seven, set⟩ => ⟨set, ?_⟩⟩
    · have := (masked p (lt_of_testBit m set)).mp hc
      exact ⟨this.1, this.2, set⟩
    · exact (masked p (lt_of_testBit m set)).mpr ⟨five, seven⟩
  have second : (value &&& 0xF800) ≠ 0 ↔ ∃ p, 10 < p ∧ value.testBit p = true := by
    rw [and_ne_zero_iff]
    refine exists_congr fun p => ⟨fun ⟨set, hc⟩ => ?_, fun ⟨high, set⟩ => ⟨set, ?_⟩⟩
    · exact ⟨(valued p (lt_of_testBit v set)).mp hc, set⟩
    · exact (valued p (lt_of_testBit v set)).mpr high
  rw [← first, ← second]
  simp [overrideOutOfRange]

/-- The bypass set as a set of permissives: positions 5 and 7 (R191). -/
theorem bypass_bytes (proof pressure : Bool) : (Bypass.mk proof pressure).bytes =
    [BitVec.ofNat 8 ((if proof then 32 else 0) + (if pressure then 128 else 0)), 0] := by
  revert proof pressure
  decide

/-- Settles O23: the range of mask and value is judged first, then the two bypassable permissives are written. -/
theorem spotOverrideWritesTheBypassSet : Obligations.SpotOverrideWritesTheBypassSet := by
  unfold Obligations.SpotOverrideWritesTheBypassSet
  intro tag m0 m1 v0 v1 n s state request mask value outside proof pressure
  have taken : (s.spot n).state.noOverride = false := by
    simp only [List.mem_cons, List.not_mem_nil, or_false, not_or] at state
    cases h : (s.spot n).state <;> simp_all [SpotState.noOverride]
  have maskAt : num2 [BitVec.ofNat 8 n.val, m0, m1, v0, v1] 1 = mask := rfl
  have valueAt : num2 [BitVec.ofNat 8 n.val, m0, m1, v0, v1] 3 = value := rfl
  have range : overrideOutOfRange mask value = true ↔ outside :=
    overrideOutOfRange_iff (by have := m0.isLt; have := m1.isLt; omega) (by have := v0.isLt; have := v1.isLt; omega)
  refine ⟨fun out => State.exec_named rfl rfl (num1_spot n _) ?_, fun inside => State.exec_named rfl rfl (num1_spot n _) ?_⟩
  · simp [State.overrideBypass, taken, maskAt, valueAt, range.mpr out, State.refuse]
  · have inside : overrideOutOfRange mask value = false := Bool.eq_false_iff.mpr (mt range.mp inside)
    have written : (s.spot n).bypass.override mask value = ⟨proof, pressure⟩ := rfl
    simp [State.overrideBypass, taken, maskAt, valueAt, inside, written, bypass_bytes]

end Sys2Proof.Machine
end

section
/-! SUPPORT. The timers of a spot: settle, transfer limit, strip, window, purge and travel (chapters 1, 3 and 9). -/

namespace Sys2Proof.Machine

theorem Timer.not_running_iff {t : Timer} : ¬t.isRunning = true ↔ t = .stopped := by cases t <;> simp

/-! ## Settle, transfer limit and strip (R7, R16, R18) -/

/-- Settles O37: each timer of a spot does what its rule says when it runs, and nothing when it is stopped. -/
theorem spotTimersMoveTheSpotOn : Obligations.SpotTimersMoveTheSpotOn := by
  unfold Obligations.SpotTimersMoveTheSpotOn
  intro n s r
  have settle : exec (.settleTimerExpiry n) s = execSettleTimerExpiry n s := rfl
  have limit : exec (.transferLimitExpiry n) s = execTransferLimitExpiry n s := rfl
  have strip : exec (.stripTimerExpiry n) s = execStripTimerExpiry n s := rfl
  refine ⟨fun stopped => ?_, fun runs => ?_, fun stopped => ?_, fun runs => ⟨_, ?_, State.enters_enterPurge _ n _⟩,
    fun stopped => ?_, fun runs => ⟨_, ?_, State.enters_enterPurge _ n _⟩⟩
  · rw [settle, execSettleTimerExpiry, if_neg (Timer.not_running_iff.mpr stopped)]
  · simp [settle, execSettleTimerExpiry, Timer.isRunning_iff.mpr runs, r]
  · rw [limit, execTransferLimitExpiry, if_neg (Bool.eq_false_iff.mp stopped)]
  · rw [limit, execTransferLimitExpiry, if_pos runs]
    rfl
  · rw [strip, execStripTimerExpiry, if_neg (Timer.not_running_iff.mpr stopped)]
  · rw [strip, execStripTimerExpiry, if_pos (Timer.isRunning_iff.mpr runs)]
    rfl

/-! ## What a course leaves of the trip causes (R107, R108) -/

namespace State

variable {s t : State} {n : SpotNo}

/-- A level condition is judged from the station record and the siding alone (R107). -/
theorem levelCondition_congr (station : t.station n = s.station n) (siding : t.siding = s.siding) (c : TripCause) :
    t.levelCondition n c = s.levelCondition n c := by
  cases c <;> simp [levelCondition, station, siding]

/-- No level cause rises while the station record and the siding stay (R108). -/
theorem risen_same (station : t.station n = s.station n) (siding : t.siding = s.siding) : t.risen s n = [] :=
  risen_none _ _ _ fun c h => (levelCondition_congr station siding c) ▸ h

/-- A level cause is present by the station record, the siding and whether metering has begun (R107). -/
theorem levelPresent_congr (station : t.station n = s.station n) (siding : t.siding = s.siding)
    (metered : t.metered n = s.metered n) {c : TripCause} (level : c.isLevel = true) :
    t.causePresent n c = s.causePresent n c := by
  cases c <;> first
    | exact absurd level (by decide)
    | simp [causePresent, levelCondition, station, siding, metered]

/-- A station event that brings no cause and no report to a spot whose record stands in a moving state changes nothing. -/
theorem takeStationEvent_quiet (old : State) (risen : s.risen old n = []) (moving : (s.spot n).state.moving = true) :
    s.takeStationEvent old n [] none = s := by
  have armed : (s.spot n).state.armed = true := by
    cases h : (s.spot n).state <;> simp [h, SpotState.moving, SpotState.armed] at moving ⊢
  have taken : s.takeCauses n (causeUnion (s.risen old n) []) = s := by
    rw [risen, show causeUnion [] [] = [] from rfl, takeCauses, if_pos armed]
    rfl
  show (s.takeCauses n (causeUnion (s.risen old n) [])).moveOnInputs n = s
  rw [taken]
  refine moveOnInputs_still s n (fun h => ?_) fun h => ?_ <;> simp [h, SpotState.moving] at moving

/-! ## The window timer (R50, R52, R154) -/

/-- The metering record with one window more. -/
def counted (m : Meter) : Meter := { m with windowsCounted := count32 m.windowsCounted }

theorem takeWindow_asks (phase : Phase) (period : Nat) (free : (s.meter n).windowRead = none)
    (reached : (s.station n).status ≠ .lost) :
    s.takeWindow n phase period =
      ((s.setMeter n { counted (s.meter n) with windowRead := some ⟨phase, period⟩ }).request n
        (.sampleRead ⟨some phase, false, false⟩), none) := by
  simp [takeWindow, free, reached, setMeter_setMeter, counted]

/-- With a read outstanding, and at a LOST station, the window is computed at once as an estimated one (R52, R154). -/
theorem takeWindow_computes (phase : Phase) (period : Nat)
    (h : (s.meter n).windowRead ≠ none ∨ (s.station n).status = .lost) :
    let c := (counted (s.meter n)).computeWindow (s.spot n).config (s.carGrade n) (s.targetOf n) ⟨phase, period⟩ 0
      true none
    s.takeWindow n phase period = (s.setMeter n c.1, some c.2) := by
  have record (m : Meter) : (s.setMeter n m).carGrade n = s.carGrade n := rfl
  have target (m : Meter) : (s.setMeter n m).targetOf n = s.targetOf n := rfl
  cases read : (s.meter n).windowRead with
  | some w => simp [takeWindow, read, computeWindow, setMeter_setMeter, counted, record, target]
  | none =>
    have lost : (s.station n).status = .lost := h.resolve_left (not_not.mpr read)
    have same : ({ counted (s.meter n) with windowRead := none } : Meter) = counted (s.meter n) := by
      rw [← read]
      rfl
    rw [← same]
    simp [takeWindow, read, lost, missWindow, completeWindow, computeWindow, setMeter_setMeter, counted, record, target]

end State

theorem SpotState.phase_eq (state : SpotState) : state.phase = if state = .strip then .strip else .transfer := by
  simp [SpotState.phase]

/-- A computed window brings SENSOR_FAULT to a moving spot where its fifth estimate in a row is reported (R65, R112). -/
theorem reportCauses_window {state : SpotState} (moving : state.moving = true) (m : Meter) (c : SpotConfig)
    (g : Option Grade) (target : Option Nat) (w : WindowRead) (p : Nat) (estimated : Bool) (fresh : Option Nat) :
    reportCauses state (some (m.computeWindow c g target w p estimated fresh).2) =
      if (m.computeWindow c g target w p estimated fresh).1.heldRun = 5 then [.sensorFault] else [] := by
  rw [reportCauses, moving]
  exact if_congr beq_iff_eq rfl rfl

/-- Settles O38: the window timer closes a window; its read is asked for, or the window is computed at once. -/
theorem windowTimerClosesAWindow : Obligations.WindowTimerClosesAWindow := by
  unfold Obligations.WindowTimerClosesAWindow
  intro n s r period phase counted b
  have request : exec (.windowTimerExpiry n) s = execWindowTimerExpiry n s := rfl
  have record : b.spot n = { r with window := .running period } := State.spot_setSpot_self ..
  refine ⟨fun stopped => by
    rw [request, execWindowTimerExpiry, if_neg (Timer.not_running_iff.mpr stopped)], fun runs moves => ?_⟩
  have moving : r.state.moving = true := by rcases moves with h | h <;> rw [h] <;> rfl
  have taken : exec (.windowTimerExpiry n) s =
      .next ((b.takeWindow n phase period).1.takeStationEvent s n
        (reportCauses r.state (b.takeWindow n phase period).2) (b.takeWindow n phase period).2) := by
    rw [request, execWindowTimerExpiry, if_pos (Timer.isRunning_iff.mpr runs), SpotState.phase_eq]
    rfl
  refine ⟨fun free reached => ?_, fun closed => ?_⟩
  · rw [taken, State.takeWindow_asks (s := b) phase period free reached]
    have course : Course s (((b.setMeter n { counted with windowRead := some ⟨phase, period⟩ }).request n
        (.sampleRead ⟨some phase, false, false⟩))) :=
      ((Course.setSpot s n _).trans (.setMeter ..)).trans (.request ..)
    have nothing : reportCauses r.state none = [] := by simp [reportCauses]
    dsimp only
    rw [nothing]
    refine congrArg _ (State.takeStationEvent_quiet s (State.risen_same (course.station n) course.siding) ?_)
    rw [State.spot_request, State.spot_setMeter, record]
    exact moving
  · intro c
    have computed : b.takeWindow n phase period = (b.setMeter n c.1, some c.2) := by
      have := State.takeWindow_computes (s := b) (n := n) phase period closed
      have grade : b.carGrade n = s.carGrade n := by simp only [State.carGrade, record]; rfl
      simp only [State.targetOf, grade, record] at this
      exact this
    have causes : causeUnion ((b.setMeter n c.1).risen s n) (reportCauses r.state (some c.2)) =
        if c.1.heldRun = 5 then [.sensorFault] else [] := by
      rw [State.risen_same (s := s) (t := b.setMeter n c.1) rfl rfl, reportCauses_window moving]
      split <;> rfl
    rw [taken, computed]
    exact ⟨_, _, rfl, causes ▸ State.takes_takeStationEvent _ n s _, State.outcome_takeOutcome ..⟩

/-! ## The purge timer (R23, R167 to R174) -/

namespace State

variable (s : State) {n : SpotNo} {c : CarRecord} {reason : EndReason}

/-- The end of a purge with a car and an end_reason: the ticket is placed and the car leaves; the spot is COMPLETE where
the queue has room (and VACANT where the arms are off already), and in TICKET_WAIT where it has not (R23, R25, R174). -/
theorem endPurge_eq (car : (s.spot n).car = some c) (ended : (s.spot n).endReason = some reason) :
    let t := buildTicket s.tickets.serial n (s.spot n) (s.meter n) c reason (gradeRounding (s.carGrade n))
    let left : SpotRecord := { s.spot n with car := none }
    (s.tickets.queue.length < 16 → s.endPurge n =
      (s.setTickets { s.tickets with serial := nextSerial s.tickets.serial, queue := s.tickets.queue ++ [t] }).setSpot n
        (if (s.station n).inputs.arms then { left with state := .complete } else left.toVacant))
    ∧ (16 ≤ s.tickets.queue.length → s.endPurge n =
      (s.setTickets { s.tickets with
        serial := nextSerial s.tickets.serial, wait := s.tickets.wait ++ [⟨n, t⟩] }).setSpot n
        { left with state := .ticketWait }) := by
  intro t left
  have ends : s.endPurge n =
      let b := (s.setTickets (s.tickets.place n t)).setSpot n left
      if s.tickets.queue.length < 16 then b.enterComplete n else b.onSpot n fun r => { r with state := .ticketWait } := by
    unfold endPurge
    simp only [car, ended]
    rfl
  refine ⟨fun few => ?_, fun many => ?_⟩
  · rw [ends, TicketUnit.place, if_pos few, if_pos few, enterComplete]
    simp only [onSpot_eq, spot_setSpot_self, setSpot_setSpot, station_setSpot, station_setTickets]
    exact (apply_ite _ ..).symm
  · rw [ends, TicketUnit.place, if_neg (not_lt.mpr many), if_neg (not_lt.mpr many)]
    simp only [onSpot_eq, spot_setSpot_self, setSpot_setSpot]

end State

/-- Settles O39: with the closing read settled the ticket is built and placed, and the spot goes on. -/
theorem purgeEndBuildsTheTicket : Obligations.PurgeEndBuildsTheTicket := by
  unfold Obligations.PurgeEndBuildsTheTicket
  intro n s r m expired
  have request : exec (.purgeTimerExpiry n) s = execPurgeTimerExpiry n s := rfl
  have runs_eq (runs : r.purge ≠ .stopped) : exec (.purgeTimerExpiry n) s =
      .next (if r.state == .purge && r.closingRead == .settled then (s.setSpot n expired).endPurge n
        else s.setSpot n expired) := by
    rw [request, execPurgeTimerExpiry, if_pos (Timer.isRunning_iff.mpr runs)]
    rfl
  refine ⟨fun stopped => by
    rw [request, execPurgeTimerExpiry, if_neg (Timer.not_running_iff.mpr stopped)], fun runs waits => ?_,
    fun runs state settled c reason car ended => ?_⟩
  · rw [runs_eq runs, if_neg (by simpa [← not_and_or] using waits)]
  · refine ⟨gradeRounding (s.carGrade n), fun g loaded => ?_, ?_⟩
    · have : s.carGrade n = some g := by
        simp only [State.carGrade, show (s.spot n).car = some c from car, loaded]
      rw [this]
      rfl
    · intro net ticket serial left
      have goes : exec (.purgeTimerExpiry n) s = .next ((s.setSpot n expired).endPurge n) := by
        rw [runs_eq runs, if_pos (by simp [state, settled])]
      have time : expired.transferTime = (1000 * r.config.transferLimit - r.limitMs) / 1000 := by
        rw [Nat.mul_comm]
        rfl
      have built : buildTicket s.tickets.serial n expired m c reason (gradeRounding (s.carGrade n)) = ticket := by
        unfold buildTicket
        rw [time]
        rfl
      have next : nextSerial s.tickets.serial = serial := if_congr beq_iff_eq rfl rfl
      obtain ⟨room, full⟩ := (s.setSpot n expired).endPurge_eq (n := n) (c := c) (reason := reason)
        (by rw [State.spot_setSpot_self]; exact car) (by rw [State.spot_setSpot_self]; exact ended)
      have grade : (s.setSpot n expired).carGrade n = s.carGrade n := by
        simp only [State.carGrade, State.spot_setSpot_self]
        rfl
      simp only [State.spot_setSpot_self, grade] at room full
      have write (u : TicketUnit) (x : SpotRecord) :
          ((s.setSpot n expired).setTickets u).setSpot n x = (s.setTickets u).setSpot n x :=
        State.setSpot_setSpot (s.setTickets u) n expired x
      refine ⟨fun few => ?_, fun many => ?_⟩
      · rw [goes, room few, write]
        refine congrArg _ ?_
        rw [← built, ← next]
        rfl
      · rw [goes, full many, write]
        refine congrArg _ ?_
        rw [← built, ← next]
        rfl

/-! ## The travel timers (R30, R112, R130) -/

theorem ValveCommand.travelling_iff (c : ValveCommand) : c.travelling = true ↔ c = .opening ∨ c = .closing := by
  cases c <;> simp [ValveCommand.travelling]

/-- The travel timer is no field that a trip or a cause reads. -/
theorem setTravel_keeps (r : SpotRecord) (side : ValveSide) (t : Timer) :
    (r.setTravel side t).state = r.state ∧ (r.setTravel side t).endReason = r.endReason
      ∧ (r.setTravel side t).trip = r.trip := by
  cases side <;> exact ⟨rfl, rfl, rfl⟩

/-- Settles O40: the expiry of a valve's travel timer fails its proof and brings VALVE_FAULT. -/
theorem travelExpiryIsAValveFault : Obligations.TravelExpiryIsAValveFault := by
  unfold Obligations.TravelExpiryIsAValveFault
  intro n side s r b failed
  have request : exec (.travelTimerExpiry n side) s = execTravelTimerExpiry n side s := rfl
  obtain ⟨state, ended, trip⟩ := setTravel_keeps r side .stopped
  have record : failed.spot n = r.setTravel side .stopped := State.spot_setSpot_self ..
  refine ⟨fun stopped => by
    rw [request, execTravelTimerExpiry, if_neg (Timer.not_running_iff.mpr stopped)], fun runs rests => ?_,
    fun runs travels => ?_⟩
  · have rests : (r.valve side).travelling = false := by rcases rests with h | h <;> rw [h] <;> rfl
    rw [request, execTravelTimerExpiry, if_pos (Timer.isRunning_iff.mpr runs)]
    exact if_neg (Bool.eq_false_iff.mp rests)
  · have faults : exec (.travelTimerExpiry n side) s = .next (failed.takeCauses n [.valveFault]) := by
      rw [request, execTravelTimerExpiry, if_pos (Timer.isRunning_iff.mpr runs)]
      exact if_pos ((ValveCommand.travelling_iff _).mpr travels)
    refine ⟨fun armed => ?_, fun tripped => ?_, fun unarmed untripped => ?_⟩
    · have causes : causeUnion [.valveFault] (failed.levelsPresent n) =
          TripCause.all.filter fun c => c = .valveFault ∨ (c.isLevel = true ∧ s.causePresent n c = true) := by
        have metered : failed.metered n = s.metered n := by
          simp only [State.metered, record, ended]
          rfl
        rw [State.trip_causes]
        refine List.filter_congr fun c _ => decide_eq_decide.mpr (or_congr (by simp) (and_congr_right fun level => ?_))
        rw [State.levelPresent_congr (s := s) (t := failed) rfl rfl metered level]
      refine ⟨failed.trip n [.valveFault], ?_, causes ▸ State.enters_trip ..⟩
      rw [faults, State.takeCauses, if_pos (by rw [record, state]; exact armed)]
    · rw [faults, State.takeCauses, record, state, tripped, if_neg (by decide), if_pos (by decide), State.onSpot_eq, record,
        SpotRecord.addCauses, trip]
      simp [State.causeUnion_eq]
    · rw [faults, State.takeCauses, record, state, if_neg (by simp [unarmed]), if_neg (by simpa using untripped)]

end Sys2Proof.Machine
end

section
/-! SUPPORT. PROOF_REQUEST (chapter 7) and TICKET_RELEASE (chapter 9). -/

namespace Sys2Proof.Machine

/-! ## PROOF_REQUEST (R142) -/

theorem strokeLimit_eq (s : State) (v : ValveIndex) : s.strokeLimit v = strokeLimitOf s v := by
  unfold State.strokeLimit strokeLimitOf valveSideOf
  by_cases h : v.val % 2 = 0
  · rw [if_pos h, if_pos h]
  · rw [if_neg h, if_neg h]

/-- Settles O32: each check is reached where those before it passed. -/
theorem proofRequestChecksInOrder : Obligations.ProofRequestChecksInOrder := by
  unfold Obligations.ProofRequestChecksInOrder
  intro tag b s
  dsimp only
  have answered {u : State} {status : Status} {result : List Byte} (verdict : s.requestProof [b] = ⟨status, result, u⟩) :
      exec (.proofRequest tag [b]) s = .next (u.answer 0x13 tag status result) :=
    State.exec_owned (length := 1) (owner := State.requestProof [b]) rfl rfl verdict
  refine ⟨fun far => answered ?_, fun v index => ?_⟩
  · have unnamed : valveOf (num1 [b] 0) = none := dif_neg (show ¬b.toNat < 12 by omega)
    simp [State.requestProof, unnamed, State.refuse]
  have named : valveOf (num1 [b] 0) = some v := by
    have place : num1 [b] 0 = v.val := index
    rw [place]
    exact dif_pos v.isLt
  refine ⟨fun absent => answered ?_, fun present => ⟨fun k flying => answered ?_, fun free =>
    ⟨fun occupied => answered ?_, fun vacant closedL closedV => ⟨fun away => answered ?_, fun online =>
    ⟨fun stopped => answered ?_, fun runs => ⟨_, State.starts_startStroke s v .request, answered ?_⟩⟩⟩⟩⟩⟩
  · simp [State.requestProof, named, absent, State.refuse]
  · simp [State.requestProof, named, present, flying, State.refuse, byte1]
  · simp only [State.requestProof, named, present, free, State.refuse]
    rcases occupied with state | left | vapour
    · simp [state]
    · simp [left]
    · simp [vapour]
  · simp [State.requestProof, named, present, free, vacant, closedL, closedV, away, State.refuse, byte1]
  · simp [State.requestProof, named, present, free, vacant, closedL, closedV, online, stopped, State.refuse]
  · simp [State.requestProof, named, present, free, vacant, closedL, closedV, online, runs, byte1, strokeLimit_eq,
      ← index]

/-! ## TICKET_RELEASE (R178, R179) -/

/-- Settles O33: the oldest ticket leaves, the oldest waiting one is admitted, and its spot goes on. -/
theorem ticketReleaseAdmitsTheOldestWaiting : Obligations.TicketReleaseAdmitsTheOldestWaiting := by
  unfold Obligations.TicketReleaseAdmitsTheOldestWaiting
  intro tag body s len
  dsimp only
  have answered {u : State} {status : Status} {result : List Byte} (verdict : s.releaseTicket body = ⟨status, result, u⟩) :
      exec (.ticketRelease tag body) s = .next (u.answer 0x16 tag status result) :=
    State.exec_owned rfl len verdict
  refine ⟨fun empty => answered ?_, fun oldest rest queue => ⟨fun other => answered ?_, fun number => ?_⟩⟩
  · simp [State.releaseTicket, empty, State.refuse]
  · simp [State.releaseTicket, queue, other, State.refuse]
  have releases : s.releaseTicket body = s.releaseOldest oldest rest := by simp [State.releaseTicket, queue, number]
  refine ⟨fun nobody => answered ?_, fun w waiting wait => ⟨fun arms => answered ?_, fun off => answered ?_⟩⟩
  · rw [releases]
    simp [State.releaseOldest, nobody, leBytes, byte1, State.setTickets]
  · rw [releases, State.releaseOldest, wait]
    simp only [State.enterComplete, State.station_setTickets, arms, if_true]
    rfl
  · rw [releases, State.releaseOldest, wait]
    simp only [State.enterComplete, State.station_setTickets, off]
    rfl

end Sys2Proof.Machine
end

section
/-! SUPPORT. Car records of 24 bytes and SPOT_CONFIG bodies, written and read back (R2, R35, R190, R199). -/

namespace Sys2Proof.Machine

/-! ## Numbers in bytes -/

theorem leBytes_four (v : Nat) : leBytes 4 v = Layout.num 4 v := by
  simp [leBytes, Layout.num, List.range_succ, Nat.div_div_eq_div_mul]

/-- A body from an offset on, where some bytes are there. -/
theorem bytesAt_append_drop (b : List Byte) (off width : Nat) : bytesAt b off width ++ b.drop (off + width) = b.drop off := by
  rw [bytesAt, ← List.drop_drop, List.take_append_drop]

theorem length_num (width v : Nat) : (Layout.num width v).length = width := by simp [Layout.num]

/-- A body goes on from an offset with a field and a rest exactly when the field's bytes and the rest stand there. -/
theorem drop_eq_num_append {b rest : List Byte} {off width v : Nat} (room : off + width ≤ b.length) :
    b.drop off = Layout.num width v ++ rest ↔ bytesAt b off width = Layout.num width v ∧ b.drop (off + width) = rest := by
  rw [← bytesAt_append_drop b off width]
  have len : (bytesAt b off width).length = (Layout.num width v).length := by
    rw [length_num, bytesAt, List.length_take, List.length_drop]
    omega
  exact ⟨fun same => List.append_inj same len, fun ⟨field, rest⟩ => by rw [field, rest]⟩

theorem bytesAt_one {b : List Byte} {off : Nat} (room : off + 1 ≤ b.length) : bytesAt b off 1 = [byteAt b off] := by
  simp only [bytesAt, byteAt]
  rw [List.drop_eq_getElem_cons (by omega), List.take_succ_cons]
  simp [List.getD, List.getElem?_eq_getElem (show off < b.length by omega)]

theorem bytesAt_succ {b : List Byte} {off width : Nat} (room : off + 1 ≤ b.length) :
    bytesAt b off (width + 1) = byteAt b off :: bytesAt b (off + 1) width := by
  simp only [bytesAt, byteAt]
  rw [List.drop_eq_getElem_cons (by omega), List.take_succ_cons]
  simp [List.getD, List.getElem?_eq_getElem (show off < b.length by omega)]

/-- A byte is the one of a number modulo 256. -/
theorem byte_eq_iff (x : Byte) (v : Nat) : x = BitVec.ofNat 8 v ↔ x.toNat = v % 256 := by
  rw [← BitVec.toNat_inj, BitVec.toNat_ofNat]

theorem num1_eq_iff {b : List Byte} {off v : Nat} (room : off + 1 ≤ b.length) (small : v < 256) :
    num1 b off = v ↔ bytesAt b off 1 = Layout.num 1 v := by
  rw [bytesAt_one room]
  simp only [Layout.num, List.range_succ, List.range_zero, List.nil_append, List.map_cons, List.map_nil, pow_zero, Nat.div_one,
    List.cons.injEq, and_true, byte_eq_iff, num1]
  omega

theorem num2_eq_iff {b : List Byte} {off v : Nat} (room : off + 2 ≤ b.length) (small : v < 65536) :
    num2 b off = v ↔ bytesAt b off 2 = Layout.num 2 v := by
  rw [bytesAt_succ (by omega), bytesAt_one (by omega)]
  have := (byteAt b off).isLt
  have := (byteAt b (off + 1)).isLt
  simp only [Layout.num, List.range_succ, List.range_zero, List.nil_append, List.cons_append, List.map_cons, List.map_nil,
    pow_zero, pow_one, Nat.div_one, List.cons.injEq, and_true, byte_eq_iff, num2, num1]
  omega

theorem num4_eq_iff {b : List Byte} {off v : Nat} (room : off + 4 ≤ b.length) (small : v < 4294967296) :
    num4 b off = v ↔ bytesAt b off 4 = Layout.num 4 v := by
  rw [bytesAt_succ (by omega), bytesAt_succ (by omega), bytesAt_succ (by omega), bytesAt_one (by omega)]
  have := (byteAt b off).isLt
  have := (byteAt b (off + 1)).isLt
  have := (byteAt b (off + 2)).isLt
  have := (byteAt b (off + 3)).isLt
  simp only [Layout.num, List.range_succ, List.range_zero, List.nil_append, List.cons_append, List.map_cons, List.map_nil,
    pow_zero, pow_one, Nat.div_one, List.cons.injEq, and_true, byte_eq_iff, num4, num2, num1, Nat.reducePow]
  rw [show off + 1 + 1 = off + 2 from rfl, show off + 2 + 1 = off + 3 from rfl]
  omega

/-! ## Spot configurations (R2, R190) -/

theorem inRange_iff (lo hi v : Nat) : inRange lo hi v = true ↔ lo ≤ v ∧ v ≤ hi := by simp [inRange]

/-- The fields of a body are those of a configuration. -/
structure SpotConfig.ReadAt (c : SpotConfig) (b : List Byte) : Prop where
  present : num1 b 1 = if c.present then 1 else 0
  k : num4 b 2 = c.k
  co : num2 b 6 = c.co
  dpCutoff : num2 b 8 = c.dpCutoff
  settleTime : num2 b 10 = c.settleTime
  purgeTime : num2 b 12 = c.purgeTime
  stripLimit : num2 b 14 = c.stripLimit
  transferLimit : num2 b 16 = c.transferLimit
  heelWindows : num1 b 18 = c.heelWindows
  travelLimit : num1 b 19 = c.travelLimit
  strokeLimitL : num2 b 20 = c.strokeLimitL
  strokeLimitV : num2 b 22 = c.strokeLimitV

theorem readSpotConfig_iff (b : List Byte) (c : SpotConfig) : readSpotConfig b = some c ↔ c.Valid ∧ c.ReadAt b := by
  constructor
  · intro read
    unfold readSpotConfig at read
    rw [Option.ite_none_right_eq_some] at read
    obtain ⟨checks, same⟩ := read
    cases same
    simp only [Bool.and_eq_true, inRange_iff, decide_eq_true_eq] at checks
    obtain ⟨⟨⟨⟨⟨⟨⟨⟨⟨⟨⟨yes, k⟩, co⟩, cutoff⟩, settle⟩, purge⟩, strip⟩, transfer⟩, heel⟩, travel⟩, strokeL⟩, strokeV⟩ := checks
    refine ⟨⟨k, co, cutoff.2, settle, purge, strip, transfer, heel, travel, strokeL, strokeV⟩,
      ⟨?_, rfl, rfl, rfl, rfl, rfl, rfl, rfl, rfl, rfl, rfl, rfl⟩⟩
    simp only [beq_iff_eq]
    split <;> omega
  · rintro ⟨valid, at_⟩
    unfold readSpotConfig
    have yes : num1 b 1 ≤ 1 := by rw [at_.present]; split <;> omega
    have present : (num1 b 1 == 1) = c.present := by rw [at_.present]; cases c.present <;> rfl
    simp only [at_.k, at_.co, at_.dpCutoff, at_.settleTime, at_.purgeTime, at_.stripLimit, at_.transferLimit,
      at_.heelWindows, at_.travelLimit, at_.strokeLimitL, at_.strokeLimitV, present]
    rw [if_pos]
    simp only [Bool.and_eq_true, inRange_iff, decide_eq_true_eq]
    exact ⟨⟨⟨⟨⟨⟨⟨⟨⟨⟨⟨yes, valid.k⟩, valid.co⟩, Nat.zero_le _, valid.dpCutoff⟩, valid.settleTime⟩, valid.purgeTime⟩,
      valid.stripLimit⟩, valid.transferLimit⟩, valid.heelWindows⟩, valid.travelLimit⟩, valid.strokeLimitL⟩, valid.strokeLimitV⟩

/-- The fields are there exactly when the bytes after the spot number are those of the configuration. -/
theorem SpotConfig.readAt_iff {c : SpotConfig} (valid : c.Valid) {b : List Byte} (len : b.length = 24) (n : SpotNo) :
    c.ReadAt b ↔ b.drop 1 = (c.body n).drop 1 := by
  have body : (c.body n).drop 1 = Layout.num 1 (if c.present then 1 else 0) ++ (Layout.num 4 c.k ++ (Layout.num 2 c.co
      ++ (Layout.num 2 c.dpCutoff ++ (Layout.num 2 c.settleTime ++ (Layout.num 2 c.purgeTime ++ (Layout.num 2 c.stripLimit
      ++ (Layout.num 2 c.transferLimit ++ (Layout.num 1 c.heelWindows ++ (Layout.num 1 c.travelLimit
      ++ (Layout.num 2 c.strokeLimitL ++ (Layout.num 2 c.strokeLimitV ++ []))))))))))) := by
    simp only [SpotConfig.body, List.append_assoc, List.append_nil]
    rfl
  obtain ⟨k, co, cutoff, settle, purge, strip, transfer, heel, travel, strokeL, strokeV⟩ := valid
  have nothing : b.drop 24 = [] := by simp [len]
  have step (off width next : Nat) (here : off + width = next) (room : next ≤ 24) (v : Nat) (rest : List Byte) :
      b.drop off = Layout.num width v ++ rest ↔ bytesAt b off width = Layout.num width v ∧ b.drop next = rest := by
    subst here
    exact drop_eq_num_append (len ▸ room)
  rw [body, step 1 1 2 rfl (by decide), step 2 4 6 rfl (by decide), step 6 2 8 rfl (by decide),
    step 8 2 10 rfl (by decide), step 10 2 12 rfl (by decide), step 12 2 14 rfl (by decide),
    step 14 2 16 rfl (by decide), step 16 2 18 rfl (by decide), step 18 1 19 rfl (by decide),
    step 19 1 20 rfl (by decide), step 20 2 22 rfl (by decide), step 22 2 24 rfl (by decide)]
  have one {off v : Nat} (room : off + 1 ≤ 24) (small : v < 256) := num1_eq_iff (len ▸ room) small
  have two {off v : Nat} (room : off + 2 ≤ 24) (small : v < 65536) := num2_eq_iff (len ▸ room) small
  have four {off v : Nat} (room : off + 4 ≤ 24) (small : v < 4294967296) := num4_eq_iff (len ▸ room) small
  have flag : (if c.present then 1 else 0) < 256 := by split <;> decide
  rw [← one (by decide) flag, ← four (by decide) (by omega), ← two (off := 6) (by decide) (by omega),
    ← two (off := 8) (by decide) (by omega), ← two (off := 10) (by decide) (by omega),
    ← two (off := 12) (by decide) (by omega), ← two (off := 14) (by decide) (by omega),
    ← two (off := 16) (by decide) (by omega), ← one (off := 18) (by decide) (by omega),
    ← one (off := 19) (by decide) (by omega), ← two (off := 20) (by decide) (by omega),
    ← two (off := 22) (by decide) (by omega)]
  exact ⟨fun r => ⟨r.present, r.k, r.co, r.dpCutoff, r.settleTime, r.purgeTime, r.stripLimit, r.transferLimit,
      r.heelWindows, r.travelLimit, r.strokeLimitL, r.strokeLimitV, nothing⟩,
    fun ⟨present, k, co, cutoff, settle, purge, strip, transfer, heel, travel, strokeL, strokeV, _⟩ =>
      ⟨present, k, co, cutoff, settle, purge, strip, transfer, heel, travel, strokeL, strokeV⟩⟩

theorem length_body (c : SpotConfig) (n : SpotNo) : (c.body n).length = 24 := by
  simp [SpotConfig.body, length_num]

/-! ## Car records (R35, R199) -/

/-- The character rules of a car id (R35). -/
structure IdValid (id : List Byte) : Prop where
  length : 1 ≤ id.length ∧ id.length ≤ 12
  chars : ∀ x ∈ id, 32 ≤ x.toNat ∧ x.toNat ≤ 126
  ends : id.head? ≠ some 32#8 ∧ id.getLast? ≠ some 32#8

theorem charsValid_iff (id : List Byte) : charsValid 12 id = true ↔ IdValid id := by
  simp only [charsValid, isPrintable, Bool.and_eq_true, decide_eq_true_eq, List.all_eq_true, bne_iff_ne]
  exact ⟨fun ⟨⟨⟨length, chars⟩, first⟩, last⟩ => ⟨length, chars, first, last⟩,
    fun v => ⟨⟨⟨v.length, v.chars⟩, v.ends.1⟩, v.ends.2⟩⟩

/-- A car id read follows the rules, and is what stands after a length that the field has room for. -/
theorem readCarId_iff (b id : List Byte) : readCarId b 0 = some id ↔
    IdValid id ∧ 1 ≤ num1 b 0 ∧ num1 b 0 ≤ 12 ∧ bytesAt b 1 (num1 b 0) = id := by
  unfold readCarId readChars
  rw [Option.ite_none_right_eq_some, Bool.and_eq_true, Bool.and_eq_true, charsValid_iff, decide_eq_true_eq,
    decide_eq_true_eq, Option.some.injEq]
  constructor
  · rintro ⟨⟨⟨low, high⟩, valid⟩, same⟩
    exact ⟨same ▸ valid, low, high, same⟩
  · rintro ⟨valid, low, high, same⟩
    exact ⟨⟨⟨low, high⟩, same.symm ▸ valid⟩, same⟩

/-- In a body of 24 bytes the length byte is the id's length. -/
theorem readCarId_iff_of_length {b : List Byte} (len : b.length = 24) (id : List Byte) : readCarId b 0 = some id ↔
    IdValid id ∧ num1 b 0 = id.length ∧ bytesAt b 1 id.length = id := by
  rw [readCarId_iff]
  refine and_congr_right fun valid => ⟨fun ⟨_, high, same⟩ => ?_, fun ⟨length, same⟩ => ?_⟩
  · have : num1 b 0 = id.length := by
      rw [← same, bytesAt, List.length_take, List.length_drop]
      omega
    exact ⟨this, this ▸ same⟩
  · exact ⟨length ▸ valid.length.1, length ▸ valid.length.2, length ▸ same⟩

theorem massValid_iff (kg : Nat) : massValid kg = true ↔ 1 ≤ kg ∧ kg ≤ 120000 := by simp [massValid]

/-- A field that is there where its presence bit is set, with its value. -/
theorem option_eq_ite_iff {α : Type} (o : Option α) (p : Bool) (v : α) :
    (o = if p then some v else none) ↔ p = o.isSome ∧ ∀ x, o = some x → v = x := by
  cases o <;> cases p <;> simp [eq_comm]

/-- A record is read field by field. -/
structure CarRecord.ReadAt (c : CarRecord) (b : List Byte) : Prop where
  id : readCarId b 0 = some c.carId
  grade : num1 b 13 = c.grade.val
  declared : c.declaredMass = if bit (num1 b 14) 0 then some (num4 b 15) else none
  target : c.targetMass = if bit (num1 b 14) 1 then some (num4 b 19) else none
  set : c.spotSet = if bit (num1 b 14) 2 then some (readSpotSet (num1 b 23)) else none
  declaredValid : ∀ kg, c.declaredMass = some kg → 1 ≤ kg ∧ kg ≤ 120000
  targetValid : ∀ kg, c.targetMass = some kg → 1 ≤ kg ∧ kg ≤ 120000
  setValid : bit (num1 b 14) 2 = true → 1 ≤ num1 b 23 ∧ num1 b 23 < 64

theorem gradeOf_iff (v : Nat) (g : GradeNo) : gradeOf v = some g ↔ v = g.val := by
  unfold gradeOf
  split
  · simp [Fin.ext_iff]
  · have := g.isLt
    simp
    omega

theorem readCarRecord_iff (b : List Byte) (c : CarRecord) : readCarRecord b = some c ↔ c.ReadAt b := by
  obtain ⟨carId, grade, declared, target, set⟩ := c
  unfold readCarRecord
  constructor
  · intro read
    dsimp only at read
    split at read
    · rename_i id g hid hg
      rw [Option.ite_none_right_eq_some, Option.some.injEq] at read
      obtain ⟨checks, same⟩ := read
      cases same
      simp only [Bool.and_eq_true, Option.all_eq_true, massValid_iff, decide_eq_true_eq] at checks
      obtain ⟨⟨declared, target⟩, set⟩ := checks
      refine ⟨hid, (gradeOf_iff _ _).mp hg, rfl, rfl, ?_, declared, target, fun there => set _ (if_pos there)⟩
      dsimp only
      split <;> rfl
    · cases read
  · rintro ⟨id, hgrade, hdeclared, htarget, hset, declaredValid, targetValid, setValid⟩
    dsimp only at id hgrade hdeclared htarget hset declaredValid targetValid
    rw [id, (gradeOf_iff _ _).mpr hgrade]
    dsimp only
    rw [← hdeclared, ← htarget, if_pos]
    · rw [hset]
      split <;> rfl
    · simp only [Bool.and_eq_true, Option.all_eq_true, massValid_iff, decide_eq_true_eq]
      refine ⟨⟨declaredValid, targetValid⟩, fun v there => ?_⟩
      rw [Option.ite_none_right_eq_some] at there
      exact Option.some.inj there.2 ▸ setValid there.1

/-! ### Sets of spots (R191) -/

/-- The number of a set of spots. -/
def setNumber (l : List SpotNo) : Nat := Layout.bits (allSpots.map fun n => (decide (n ∈ l), n.val))

theorem readSpotSet_setNumber (l : List SpotNo) : readSpotSet (setNumber l) = allSpots.filter fun n => n ∈ l := by
  have bits : ∀ a b c d e f : Bool, ∀ n : Fin 6,
      (Layout.bits [(a, 0), (b, 1), (c, 2), (d, 3), (e, 4), (f, 5)]).testBit n.val = [a, b, c, d, e, f].getD n.val false := by
    decide
  refine List.filter_congr fun n _ => ?_
  have := bits (decide (0 ∈ l)) (decide (1 ∈ l)) (decide (2 ∈ l)) (decide (3 ∈ l)) (decide (4 ∈ l)) (decide (5 ∈ l)) n
  refine Eq.trans this ?_
  fin_cases n <;> rfl

theorem setNumber_lt (l : List SpotNo) : setNumber l < 64 := by
  have bound : ∀ a b c d e f : Bool, Layout.bits [(a, 0), (b, 1), (c, 2), (d, 3), (e, 4), (f, 5)] < 64 := by decide
  exact bound ..

theorem setNumber_readSpotSet : ∀ v < 64, setNumber (readSpotSet v) = v := by decide

theorem setNumber_nil : setNumber [] = 0 := rfl

theorem spotSetByte_eq (l : List SpotNo) : spotSetByte l = BitVec.ofNat 8 (setNumber l) := by
  have same : ∀ a b c d e f : Bool,
      ofBits [a, b, c, d, e, f] = Layout.bits [(a, 0), (b, 1), (c, 2), (d, 3), (e, 4), (f, 5)] := by decide
  have contains : allSpots.map l.contains = allSpots.map fun n => decide (n ∈ l) :=
    List.map_congr_left fun n _ => List.contains_eq_mem n l
  rw [spotSetByte, contains]
  exact congrArg byte1 (same ..)

theorem spots_eq (l : List SpotNo) : Layout.spots l = [BitVec.ofNat 8 (setNumber l)] := by
  simp [Layout.spots, Layout.num, setNumber]

/-- A byte of a set of at least one spot is that of a set in ascending order with a member. -/
theorem readSpotSet_iff {x : Byte} {l : List SpotNo} : (1 ≤ x.toNat ∧ x.toNat < 64) ∧ readSpotSet x.toNat = l ↔
    (l ≠ [] ∧ l = allSpots.filter fun n => n ∈ l) ∧ [x] = Layout.spots l := by
  have spots : [x] = Layout.spots l ↔ x.toNat = setNumber l := by
    have := setNumber_lt l
    simp only [spots_eq, List.cons.injEq, and_true, byte_eq_iff]
    omega
  rw [spots]
  constructor
  · rintro ⟨⟨low, high⟩, rfl⟩
    have number := setNumber_readSpotSet _ high
    refine ⟨⟨fun nil => ?_, ?_⟩, number.symm⟩
    · rw [nil, setNumber_nil] at number
      omega
    · rw [← readSpotSet_setNumber, number]
  · rintro ⟨⟨some_, order⟩, number⟩
    have same : readSpotSet x.toNat = l := by rw [number, readSpotSet_setNumber, ← order]
    refine ⟨⟨?_, number ▸ setNumber_lt l⟩, same⟩
    by_contra zero
    rw [show x.toNat = 0 by omega] at same
    exact some_ (same.symm.trans rfl)

/-! ### Records -/

theorem getLsbD_eq_bit (x : Byte) (i : Nat) : x.getLsbD i = bit x.toNat i := rfl

/-- A record read is valid (R35). -/
theorem CarRecord.ReadAt.valid {c : CarRecord} {b : List Byte} (h : c.ReadAt b) : c.Valid := by
  obtain ⟨id, -⟩ := (readCarId_iff b c.carId).mp h.id
  refine ⟨id.length, id.chars, id.ends, h.declaredValid, h.targetValid, fun l there => ?_⟩
  have set := h.set.symm.trans there
  rw [Option.ite_none_right_eq_some, Option.some.injEq] at set
  exact (readSpotSet_iff.mp ⟨h.setValid set.1, set.2⟩).1

/-- In a body of 24 bytes the record read is the valid one that is in it. -/
theorem CarRecord.readAt_iff {c : CarRecord} {b : List Byte} (len : b.length = 24) : c.ReadAt b ↔ c.Valid ∧ c.IsIn b := by
  have mass {off kg : Nat} (room : off + 4 ≤ 24) (valid : 1 ≤ kg ∧ kg ≤ 120000) :
      num4 b off = kg ↔ bytesAt b off 4 = Layout.num 4 kg := num4_eq_iff (len ▸ room) (by omega)
  have last : b.drop 23 = [byteAt b 23] := by
    rw [← bytesAt_one (by omega), bytesAt, List.take_of_length_le (by simp [len])]
  constructor
  · intro h
    obtain ⟨-, length, id⟩ := (readCarId_iff_of_length len c.carId).mp h.id
    obtain ⟨declaredThere, declared⟩ := (option_eq_ite_iff ..).mp h.declared
    obtain ⟨targetThere, target⟩ := (option_eq_ite_iff ..).mp h.target
    obtain ⟨setThere, set⟩ := (option_eq_ite_iff ..).mp h.set
    refine ⟨h.valid, length, id, h.grade, declaredThere, targetThere, setThere,
      fun kg there => (mass (by decide) (h.declaredValid kg there)).mp (declared kg there),
      fun kg there => (mass (by decide) (h.targetValid kg there)).mp (target kg there), fun l there => ?_⟩
    have set' : bit (num1 b 14) 2 = true := by rw [setThere, there]; rfl
    rw [last]
    exact (readSpotSet_iff.mp ⟨h.setValid set', set l there⟩).2
  · rintro ⟨valid, inside⟩
    have set (l : List SpotNo) (there : c.spotSet = some l) :=
      readSpotSet_iff.mpr ⟨valid.set l there, last ▸ inside.set l there⟩
    refine ⟨(readCarId_iff_of_length len _).mpr ⟨⟨valid.idLength, valid.idChars, valid.idEnds⟩, inside.idLength, inside.id⟩,
      inside.grade, (option_eq_ite_iff ..).mpr ⟨inside.declaredThere, fun kg there => ?_⟩,
      (option_eq_ite_iff ..).mpr ⟨inside.targetThere, fun kg there => ?_⟩,
      (option_eq_ite_iff ..).mpr ⟨inside.setThere, fun l there => (set l there).2⟩, valid.declared, valid.target,
      fun there => ?_⟩
    · exact (mass (by decide) (valid.declared kg there)).mpr (inside.declared kg there)
    · exact (mass (by decide) (valid.target kg there)).mpr (inside.target kg there)
    · obtain ⟨l, hl⟩ := Option.isSome_iff_exists.mp (inside.setThere.symm.trans there)
      exact (set l hl).1

/-- The bytes of a record after its car id field. -/
def CarRecord.bytesAfterId (c : CarRecord) : List Byte :=
  [byte1 c.grade.val, byte1 (ofBits [c.declaredMass.isSome, c.targetMass.isSome, c.spotSet.isSome])]
    ++ leBytes 4 (c.declaredMass.getD 0) ++ leBytes 4 (c.targetMass.getD 0) ++ [spotSetByte (c.spotSet.getD [])]

/-- The 24 bytes of a valid record have it in them. -/
theorem CarRecord.isIn_bytes {c : CarRecord} (valid : c.Valid) : c.bytes.length = 24 ∧ c.IsIn c.bytes := by
  obtain ⟨low, high⟩ := valid.idLength
  have pad : (padTo 12 c.carId).length = 12 := by
    rw [padTo, List.length_append, List.length_replicate]
    omega
  have bytes : c.bytes = BitVec.ofNat 8 c.carId.length :: (padTo 12 c.carId ++ c.bytesAfterId) := by
    simp [CarRecord.bytes, charField, bytesAfterId]
  have after (i : Nat) : c.bytes.drop (13 + i) = c.bytesAfterId.drop i := by
    rw [bytes, show 13 + i = 12 + i + 1 by omega, List.drop_succ_cons, ← List.drop_drop, List.drop_left' pad]
  have there (i : Nat) : c.bytes.getD (13 + i) 0 = c.bytesAfterId.getD i 0 := by
    rw [bytes, show 13 + i = 12 + i + 1 by omega, List.getD_cons_succ, List.getD_append_right _ _ _ _ (by omega), pad,
      Nat.add_sub_cancel_left]
  have presence (i : Nat) : (c.bytes.getD 14 0).getLsbD i =
      (ofBits [c.declaredMass.isSome, c.targetMass.isSome, c.spotSet.isSome]).testBit i := by
    have small := ofBits_lt [c.declaredMass.isSome, c.targetMass.isSome, c.spotSet.isSome]
    rw [there 1, getLsbD_eq_bit]
    show ((BitVec.ofNat 8 (ofBits _)).toNat).testBit i = _
    rw [BitVec.toNat_ofNat, Nat.mod_eq_of_lt (lt_trans small (by simp))]
  refine ⟨by simp [bytes, pad, bytesAfterId, leBytes], ?_, ?_, ?_, ?_, ?_, ?_, fun kg h => ?_, fun kg h => ?_, fun l h => ?_⟩
  · rw [bytes, List.getD_cons_zero, BitVec.toNat_ofNat]
    omega
  · rw [bytes, List.drop_one, List.tail_cons, padTo, List.append_assoc, List.take_left']
    rfl
  · rw [there 0]
    show (BitVec.ofNat 8 c.grade.val).toNat = _
    have := c.grade.isLt
    rw [BitVec.toNat_ofNat]
    omega
  · rw [presence, testBit_ofBits]
    rfl
  · rw [presence, testBit_ofBits]
    rfl
  · rw [presence, testBit_ofBits]
    rfl
  · rw [after 2, ← leBytes_four, bytesAfterId, h]
    rfl
  · rw [after 6, ← leBytes_four, bytesAfterId, h]
    rfl
  · rw [after 10, bytesAfterId, h]
    exact (congrArg (· :: []) (spotSetByte_eq l)).trans (spots_eq l).symm

/-- Settles O24: both are read field by field, each field at its place and in its range. -/
theorem carAndConfigRoundTrip : Obligations.CarAndConfigRoundTrip := by
  unfold Obligations.CarAndConfigRoundTrip
  refine ⟨⟨fun c valid => ?_, fun body c read => ((readCarRecord_iff body c).mp read).valid, fun body c len => ?_⟩,
    fun c n valid => ?_, fun body c read => ((readSpotConfig_iff body c).mp read).1, fun body c n len => ?_⟩
  · obtain ⟨len, inside⟩ := CarRecord.isIn_bytes valid
    exact ⟨len, (readCarRecord_iff _ c).mpr ((CarRecord.readAt_iff len).mpr ⟨valid, inside⟩)⟩
  · rw [readCarRecord_iff, CarRecord.readAt_iff len]
  · exact ⟨length_body c n, (readSpotConfig_iff _ c).mpr ⟨valid, (SpotConfig.readAt_iff valid (length_body c n) n).mpr rfl⟩⟩
  · rw [readSpotConfig_iff]
    exact and_congr_right fun valid => SpotConfig.readAt_iff valid len n

end Sys2Proof.Machine
end

section
/-! SUPPORT. SPOT_CONFIG (R32, R49, R138, R152, R153). -/

namespace Sys2Proof.Machine

/-! ## The stroke on a spot is ABORTED (R138) -/

/-- What is left where a stroke on spot `n`, if there is one, has been ABORTED without a CLOSE. -/
structure StrokeAbortedOn (s t : State) (n : SpotNo) : Prop where
  noStroke : t.strokeOn n = false
  aborted : ∀ k, s.proof.stroke = some k → k.valve.val / 2 = n.val →
    t.proof.stroke = none ∧ t.proofRecord k.valve = { s.proofRecord k.valve with lastResult := some .aborted }
      ∧ (t.spot n).valve (valveSideOf k.valve) = .closed
  untouched : s.strokeOn n = false → t = s
  state : (t.spot n).state = (s.spot n).state
  car : (t.spot n).car = (s.spot n).car
  others : KeepsOthers s t n
  meter : t.meter n = s.meter n
  station : t.station n = s.station n
  event : Event s t
  comp : t.comp = s.comp
  tickets : t.tickets = s.tickets
  choices : t.choices = s.choices

theorem SpotRecord.valve_setValve (r : SpotRecord) (side : ValveSide) (c : ValveCommand) :
    (r.setValve side c).valve side = c := by cases side <;> rfl

namespace State

variable {s : State} {n : SpotNo}

theorem aborted_abortStrokeOn (s : State) (n : SpotNo) : StrokeAbortedOn s (s.abortStrokeOn n) n := by
  by_cases stroke : s.strokeOn n = true
  · obtain ⟨k, flying, place⟩ := (strokeOn_iff s n).mp stroke
    have spot : valveSpot k.valve = n := Fin.ext place
    have aborts : s.abortStrokeOn n =
        (s.setProofRecord k.valve { s.proofRecord k.valve with lastResult := some .aborted }).endStroke k false := by
      rw [abortStrokeOn, if_pos stroke, abortStroke, flying]
    have ends := ends_endStroke s k { s.proofRecord k.valve with lastResult := some .aborted } false
    rw [← aborts] at ends
    have cleared : (s.abortStrokeOn n).proof.stroke = none := by rw [ends.proof]
    have record := ends.valve
    rw [spot] at record
    have meters (k : SpotNo) : (s.abortStrokeOn n).meter k = s.meter k := by rw [meter, meter, ends.frame.meters]
    have stations (k : SpotNo) : (s.abortStrokeOn n).station k = s.station k := by
      rw [station, station, ends.frame.link.stations]
    refine ⟨?_, fun j hj _ => ?_, fun h => absurd stroke (by rw [h]; decide), ?_, ?_, fun k hk =>
      ⟨ends.frame.others k (spot ▸ hk), meters k, stations k⟩, meters n, stations n, ends.frame.event, ends.frame.comp,
      ends.frame.tickets, ends.frame.choices⟩
    · refine Bool.eq_false_iff.mpr fun h => ?_
      obtain ⟨j, hj, -⟩ := (strokeOn_iff _ n).mp h
      rw [cleared] at hj
      cases hj
    · obtain rfl : k = j := Option.some.inj (flying.symm.trans hj)
      exact ⟨cleared, ends.record, by rw [record, SpotRecord.valve_setValve]⟩
    · rw [record]
      cases valveSideOf k.valve <;> rfl
    · rw [record]
      cases valveSideOf k.valve <;> rfl
  · have same : s.abortStrokeOn n = s := if_neg stroke
    rw [same]
    exact ⟨Bool.eq_false_iff.mpr stroke, fun k hk place => absurd ((strokeOn_iff s n).mpr ⟨k, hk, place⟩) stroke, fun _ => rfl,
      rfl, rfl, fun _ _ => ⟨rfl, rfl, rfl⟩, rfl, rfl, .refl _, rfl, rfl, rfl⟩

/-! ## The spot becomes present, or not present (R32, R152) -/

/-- What both leave alone. -/
structure Configures (b u : State) (n : SpotNo) : Prop where
  proof : u.proof = b.proof
  others : KeepsOthers b u n
  event : Event b u
  comp : u.comp = b.comp
  tickets : u.tickets = b.tickets
  choices : u.choices = b.choices

theorem makePresent_eq (b : State) (n : SpotNo) : b.makePresent n =
    let t := (((b.onStation n Station.onPresent).onMeter n Meter.onConfig).join (newEntry n (.initStation false)))
    t.setLink { t.link with mask := allSpots.filter fun k => k == n || t.link.mask.contains k } := by
  have queued : ((b.onStation n Station.onPresent).onMeter n Meter.onConfig).queueInit n =
      ((b.onStation n Station.onPresent).onMeter n Meter.onConfig).join (newEntry n (.initStation false)) := by
    rw [queueInit, if_neg]
    simp [Station.onPresent]
  rw [makePresent, queued]

theorem station_makePresent (b : State) (n k : SpotNo) :
    (b.makePresent n).station k = if k = n then (b.station n).onPresent else b.station k := by
  rw [makePresent_eq]
  refine Eq.trans ((Course.join _ _).station k) ?_
  rw [onMeter_eq, station_setMeter, onStation_eq, station_setStation]

theorem configures_makePresent (b : State) (n : SpotNo) : Configures b (b.makePresent n) n := by
  refine ⟨?_, fun k hk => ⟨?_, ?_, (b.station_makePresent n k).trans (if_neg hk)⟩, ?_, ?_, ?_, ?_⟩ <;> rw [makePresent_eq]
  · rfl
  · rfl
  · exact (meter_setMeter ..).trans (if_neg hk)
  · exact ⟨rfl, rfl, rfl, rfl, rfl⟩
  all_goals rfl

theorem spot_makePresent (b : State) (n : SpotNo) : (b.makePresent n).spot n = b.spot n := by
  rw [makePresent_eq]
  rfl

theorem meter_makePresent (b : State) (n : SpotNo) : (b.makePresent n).meter n = (b.meter n).onConfig := by
  rw [makePresent_eq]
  exact meter_setMeter_self ..

/-- The INITIALIZE is queued, and the station is in the attention mask (R152, R165). -/
theorem link_makePresent (b : State) (n : SpotNo) :
    (b.makePresent n).link.hasPending (some n) .initStation = true ∧ n ∈ (b.makePresent n).link.mask := by
  rw [makePresent_eq]
  exact ⟨Link.hasPending_join_self _ (newEntry n (.initStation false)),
    List.mem_filter.mpr ⟨mem_allSpots n, by simp⟩⟩

/-- An ATTENTION_POLL that is queued changes the entries of no station. -/
theorem station_of_mem_judgePollIf {b : State} {owed : Bool} {e : LinkEntry} (h : e ∈ (b.judgePollIf owed).link.entries) :
    e.station = none ∨ ∃ d ∈ b.link.entries, d.station = e.station := by
  unfold judgePollIf judgePoll join Link.join at h
  split at h
  · split at h
    · simp only [link_setLink] at h
      split at h
      · obtain ⟨d, hd, rfl⟩ := List.mem_map.mp h
        refine .inr ⟨d, hd, ?_⟩
        split <;> rfl
      · rcases List.mem_append.mp h with old | new
        · exact .inr ⟨e, old, rfl⟩
        · exact .inl (by rw [List.mem_singleton.mp new])
    · exact .inr ⟨e, h, rfl⟩
  · exact .inr ⟨e, h, rfl⟩

theorem inFlight_judgePollIf (b : State) (owed : Bool) : (b.judgePollIf owed).link.inFlight = b.link.inFlight := by
  unfold judgePollIf judgePoll join
  split
  · split
    · simp
    · rfl
  · rfl

/-- The state of a spot that is not present any more, before the attention poll is judged. -/
def dropped (b : State) (n : SpotNo) : State :=
  let t := (b.onSpot n SpotRecord.onAbsent).onStation n fun t => { t with status := .absent, recovery := .stopped }
  t.setLink (t.link.dropStation n)

theorem makeAbsent_eq (b : State) (n : SpotNo) : ∃ owed, b.makeAbsent n = (b.dropped n).judgePollIf owed := ⟨_, rfl⟩

theorem station_makeAbsent (b : State) (n k : SpotNo) : (b.makeAbsent n).station k =
    if k = n then { b.station n with status := .absent, recovery := .stopped } else b.station k := by
  obtain ⟨owed, eq⟩ := b.makeAbsent_eq n
  rw [eq, (Course.judgePollIf _ _).station]
  exact station_setStation (b.onSpot n SpotRecord.onAbsent) n k _

theorem configures_makeAbsent (b : State) (n : SpotNo) : Configures b (b.makeAbsent n) n := by
  obtain ⟨owed, eq⟩ := b.makeAbsent_eq n
  have course := Course.judgePollIf (b.dropped n) owed
  rw [← eq] at course
  refine ⟨course.proof, fun k hk => ⟨?_, ?_, (b.station_makeAbsent n k).trans (if_neg hk)⟩,
    ⟨course.pending, course.line, course.manifest, course.grades, course.siding⟩, ?_, course.tickets, course.choices⟩
  · rw [eq, spot_judgePollIf]
    exact (spot_setSpot ..).trans (if_neg hk)
  · rw [eq, meter_judgePollIf]
    rfl
  · rw [eq, comp_judgePollIf]
    rfl

theorem spot_makeAbsent (b : State) (n : SpotNo) : (b.makeAbsent n).spot n = (b.spot n).onAbsent := by
  obtain ⟨owed, eq⟩ := b.makeAbsent_eq n
  rw [eq, spot_judgePollIf]
  exact spot_setSpot_self ..

theorem meter_makeAbsent (b : State) (n : SpotNo) : (b.makeAbsent n).meter n = b.meter n := by
  obtain ⟨owed, eq⟩ := b.makeAbsent_eq n
  rw [eq, meter_judgePollIf]
  rfl

/-- Nothing is left of the station on the link (R152, R153). -/
theorem link_makeAbsent (b : State) (n : SpotNo) : (∀ e ∈ (b.makeAbsent n).link.entries, e.station ≠ some n)
    ∧ n ∉ (b.makeAbsent n).link.mask
    ∧ ∀ f, (b.makeAbsent n).link.inFlight = some f → f.entry.station = some n → f.mark = .dropped := by
  obtain ⟨owed, eq⟩ := b.makeAbsent_eq n
  rw [eq, (Course.judgePollIf (b.dropped n) owed).link.mask, inFlight_judgePollIf]
  refine ⟨fun e he => ?_, fun inMask => ?_, fun f flying place => ?_⟩
  · rcases station_of_mem_judgePollIf he with poll | ⟨d, hd, same⟩
    · rw [poll]
      simp
    · rw [← same]
      simpa using (List.mem_filter.mp hd).2
  · simpa using (List.mem_filter.mp inMask).2
  · obtain ⟨g, hg, rfl⟩ := Option.map_eq_some_iff.mp (show b.link.inFlight.map _ = some f from flying)
    by_cases here : (g.entry.station == some n) = true
    · rw [if_pos here]
    · rw [if_neg here] at place
      simp [place] at here

end State

/-- Settles O25: a stroke on the spot is ABORTED, the configuration is written, and the spot becomes present, or not. -/
theorem spotConfigTakesEffect : Obligations.SpotConfigTakesEffect := by
  unfold Obligations.SpotConfigTakesEffect
  intro tag body n s len place vacant
  have answered {u : State} {status : Status} (verdict : State.configure body n s = ⟨status, [], u⟩) :
      exec (.spotConfig tag body) s = .next (u.answer 0x0D tag status []) := State.exec_named rfl len place verdict
  refine ⟨fun unread => answered ?_, fun c read => ?_⟩
  · simp [State.configure, vacant, unread, State.refuse]
  set t := s.abortStrokeOn n with ht
  have aborted : StrokeAbortedOn s t n := State.aborted_abortStrokeOn s n
  set b := t.setSpot n { t.spot n with config := c } with hb
  have record : b.spot n = { t.spot n with config := c } := State.spot_setSpot_self ..
  set u := if c.present then b.makePresent n else b.makeAbsent n with hu
  have configures : State.Configures b u n := by
    rw [hu]
    split
    · exact State.configures_makePresent b n
    · exact State.configures_makeAbsent b n
  have verdict : State.configure body n s = ⟨.ok, [], u⟩ := by simp [State.configure, vacant, read, hu, hb, ht]
  refine ⟨u, answered verdict, ?_⟩
  have proofs : u.proof = t.proof := configures.proof
  have present (yes : c.present = true) : u = b.makePresent n := if_pos yes
  have absent (no : c.present = false) : u = b.makeAbsent n := by rw [hu, no]; rfl
  have kept {α : Type} (field : SpotRecord → α) (same : ∀ r : SpotRecord, field r.onAbsent = field r) :
      field (u.spot n) = field { t.spot n with config := c } := by
    cases there : c.present
    · rw [absent there, State.spot_makeAbsent, record, same]
    · rw [present there, State.spot_makePresent, record]
  refine ⟨kept (·.config) fun _ => rfl, (kept (·.state) fun _ => rfl).trans (aborted.state.trans vacant),
    (kept (·.car) fun _ => rfl).trans aborted.car, ?_, fun k flying here => ?_, fun noStroke => ?_, fun yes => ?_,
    fun no => ?_, fun k hk => ?_, aborted.event.trans ((Course.setSpot t n _).event.trans configures.event),
    configures.comp.trans aborted.comp, configures.tickets.trans aborted.tickets,
    configures.choices.trans aborted.choices⟩
  · rw [← aborted.noStroke, State.strokeOn, State.strokeOn, proofs]
  · obtain ⟨noStroke, failed, closed⟩ := aborted.aborted k flying here
    refine ⟨by rw [proofs, noStroke], by rw [State.proofRecord, proofs]; exact failed, ?_⟩
    cases there : c.present
    · rw [absent there, State.spot_makeAbsent]
      cases valveSideOf k.valve <;> rfl
    · rw [present there, State.spot_makePresent, record]
      cases side : valveSideOf k.valve <;> rw [side] at closed <;> exact closed
  · rw [proofs, aborted.untouched noStroke]
  · obtain ⟨init, mask⟩ := b.link_makePresent n
    rw [present yes]
    refine ⟨?_, ?_, init, mask, fun noStroke => ?_⟩
    · rw [State.station_makePresent, if_pos rfl, ← aborted.station]
      rfl
    · rw [State.meter_makePresent, ← aborted.meter]
      rfl
    · rw [State.spot_makePresent, record, aborted.untouched noStroke]
  · obtain ⟨entries, mask, flight⟩ := b.link_makeAbsent n
    rw [absent no]
    refine ⟨?_, ?_, entries, mask, flight, ?_⟩
    · rw [State.station_makeAbsent, if_pos rfl, ← aborted.station]
      rfl
    · rw [State.meter_makeAbsent, ← aborted.meter]
      rfl
    · rw [State.spot_makeAbsent]
      exact ⟨rfl, rfl, rfl, rfl, rfl⟩
  · obtain ⟨spot, meter, station⟩ := configures.others k hk
    obtain ⟨spot', meter', station'⟩ := aborted.others k hk
    exact ⟨spot.trans ((State.spot_setSpot ..).trans ((if_neg hk).trans spot')), meter.trans meter', station.trans station'⟩

end Sys2Proof.Machine
end

section
/-! SUPPORT. SIDING_MODE and the compressor inputs: several spots told to hold while grants are frozen, each of them becomes
HELD exactly once (R20, R101, R103, R122). -/

namespace Sys2Proof.Machine

/-! ## An arrangement tells each of them once (log 6) -/

theorem perm_insertAt {α : Type} (l : List α) (i : Nat) (a : α) : (insertAt l i a).Perm (a :: l) := by
  induction l generalizing i with
  | nil => exact .refl _
  | cons b l ih =>
    cases i with
    | zero => exact .refl _
    | succ i => exact ((ih i).cons b).trans (.swap a b l)

theorem perm_arrange {α : Type} (k : Nat) (l : List α) : (arrange k l).Perm l := by
  induction l generalizing k with
  | nil => exact .refl _
  | cons a l ih => exact (perm_insertAt ..).trans ((ih _).cons a)

theorem nodup_filter_allSpots (p : SpotNo → Bool) : (allSpots.filter p).Nodup :=
  List.Nodup.filter p (by decide)

theorem mem_filter_allSpots {p : SpotNo → Bool} {n : SpotNo} : n ∈ allSpots.filter p ↔ p n = true := by
  simp [mem_allSpots]

/-! ## What later operations of other spots leave of a HELD spot -/

/-- A change of what some stations have on the link leaves the pending pairs of every other (R148). -/
theorem LinkOf.hasPending {l m : Link} {touched : List SpotNo} (h : LinkOf l m touched) {n : SpotNo} (out : n ∉ touched)
    (kind : LinkKind) : m.hasPending (some n) kind = l.hasPending (some n) kind := by
  have untouched (k : Link) : k.hasPending (some n) kind =
      (k.entries.filter fun e => e.station.all fun j => j ∉ touched).any fun e => e.isPair (some n) kind := by
    rw [List.any_filter]
    refine congrArg (List.any k.entries) (funext fun e => ?_)
    by_cases pair : e.isPair (some n) kind = true
    · have : e.station = some n := by simpa using (Bool.and_eq_true_iff.mp pair).1
      simp [this, out]
    · simp [Bool.eq_false_iff.mpr pair]
  rw [untouched, untouched, h.entries]

theorem HoldsNothing.released {c : Compressor} {n : SpotNo} (h : HoldsNothing c n) (out : List SpotNo) :
    HoldsNothing (c.released out) n where
  noPush there := h.noPush (List.mem_filter.mp there).1
  noPull there := h.noPull (Option.filter_eq_some_iff.mp there).1
  noEntry e there := h.noEntry e (List.mem_filter.mp there).1

namespace BecomesHeld

variable {s t u v : State} {n : SpotNo} {reason : HoldReason}

/-- It is told from a state in which the spot's records are the same. -/
theorem of_before (h : BecomesHeld t u n reason) (spot : t.spot n = s.spot n) (meter : t.meter n = s.meter n)
    (station : t.station n = s.station n) : BecomesHeld s u n reason where
  state := h.state
  phase := spot ▸ h.phase
  holdReason := h.holdReason
  endReason := spot ▸ h.endReason
  limit := spot ▸ h.limit
  stops := h.stops
  valves := State.ClosesValves.of_record s n h.valves (by rw [spot]) (by rw [spot]) (by rw [spot]) (by rw [spot]) (by rw [spot]) (by rw [station])
  nothing := h.nothing
  car := spot ▸ h.car
  meter := meter ▸ h.meter

/-- It stays while the spot's records and pending transactions stay, and the compressor gives it nothing. -/
theorem stays (h : BecomesHeld s u n reason) (spot : v.spot n = u.spot n) (meter : v.meter n = u.meter n)
    (pending : ∀ kind, v.link.hasPending (some n) kind = u.link.hasPending (some n) kind) (nothing : HoldsNothing v.comp n) :
    BecomesHeld s v n reason where
  state := spot ▸ h.state
  phase := spot ▸ h.phase
  holdReason := spot ▸ h.holdReason
  endReason := spot ▸ h.endReason
  limit := spot ▸ h.limit
  stops := spot ▸ h.stops
  valves :=
    ⟨spot ▸ h.valves.valveL, spot ▸ h.valves.valveV, spot ▸ h.valves.travelL, spot ▸ h.valves.travelV,
      spot ▸ h.valves.deferred, fun open_ takes => by rw [pending, pending]; exact h.valves.asked open_ takes⟩
  nothing := nothing
  car := spot ▸ h.car
  meter := meter.trans h.meter

end BecomesHeld

/-! ## Several spots told to hold -/

namespace State

theorem course_foldl_enterHeld (reason : HoldReason) (told : List SpotNo) (s : State) :
    Course s (told.foldl (fun t n => t.enterHeld n reason) s) := by
  induction told generalizing s with
  | nil => exact .refl _
  | cons n told ih => exact (Course.enterHeld ..).trans (ih _)

/-- Each spot told becomes HELD, whoever is told before and after it (R20). -/
theorem held_foldl_enterHeld (reason : HoldReason) (told : List SpotNo) (once : told.Nodup) {s : State}
    (frozen : s.frozen = true) {n : SpotNo} (mem : n ∈ told) :
    BecomesHeld s (told.foldl (fun t n => t.enterHeld n reason) s) n reason := by
  induction told generalizing s with
  | nil => cases mem
  | cons m told ih =>
    obtain ⟨notLater, once⟩ := List.nodup_cons.mp once
    obtain ⟨-, -, frozen', others⟩ := enterHeld_of_frozen s m reason frozen
    rw [List.foldl_cons]
    rcases List.mem_cons.mp mem with rfl | later
    · obtain ⟨comp, link, kept⟩ := foldl_enterHeld (s.enterHeld n reason) reason told frozen'
      have held := (enters_enterHeld s n reason).toBecomesHeld
      refine held.stays (kept n notLater).1 (kept n notLater).2 (fun kind => link.hasPending notLater kind) ?_
      rw [comp]
      exact held.nothing.released told
    · have ne : n ≠ m := fun h => notLater (h ▸ later)
      exact (ih once frozen' later).of_before (others n ne).1 (others n ne).2 ((Course.enterHeld ..).station n)

/-- What several spots told to hold leave, in whatever order they are told (log 6). -/
structure TellsToHold (s u : State) (told : List SpotNo) (reason : HoldReason) : Prop where
  held : ∀ n ∈ told, BecomesHeld s u n reason
  others : ∀ n, n ∉ told → u.spot n = s.spot n ∧ u.meter n = s.meter n
  comp : u.comp = s.comp.released told
  link : LinkOf s.link u.link told
  pending : u.pending = s.pending
  line : u.line = s.line
  manifest : u.manifest = s.manifest
  grades : u.grades = s.grades
  proof : u.proof = s.proof
  tickets : u.tickets = s.tickets
  siding : u.siding = s.siding

theorem tellsToHold (s : State) (reason : HoldReason) {told : List SpotNo} (once : told.Nodup) (frozen : s.frozen = true) :
    TellsToHold s (s.tellAll told fun t n => t.enterHeld n reason) told reason := by
  obtain ⟨comp, link, others⟩ := tellAll_enterHeld s reason told frozen
  have course := course_foldl_enterHeld reason (arrange s.choices told) { s with choices := s.choices + told.length }
  refine ⟨fun n mem => ?_, others, comp, link, course.pending, course.line, course.manifest, course.grades, course.proof,
    course.tickets, course.siding⟩
  have held := held_foldl_enterHeld reason (arrange s.choices told) ((perm_arrange ..).nodup_iff.mpr once)
    (s := { s with choices := s.choices + told.length }) frozen ((mem_arrange ..).mpr mem)
  exact held.of_before rfl rfl rfl

end State

/-! ## SIDING_MODE (R121 to R124) -/

theorem SpotState.holdable_iff (state : SpotState) :
    state.holdable = true ↔ state ∈ [SpotState.startWait, .transfer, .stripWait, .strip] := by
  cases state <;> decide

theorem readSidingMode_code (mode : SidingMode) : readSidingMode mode.code = some mode := by cases mode <;> rfl

theorem readSidingMode_none {v : Nat} (far : 2 < v) : readSidingMode v = none := by
  obtain ⟨k, rfl⟩ : ∃ k, v = k + 3 := ⟨v - 3, by omega⟩
  rfl

/-- Settles O31: the mode changes, and SHUT tells every spot that can be held. -/
theorem sidingModeActsOnSpots : Obligations.SidingModeActsOnSpots := by
  unfold Obligations.SidingModeActsOnSpots
  intro tag b s old holdable
  have answered {u : State} {status : Status} {result : List Byte} (verdict : s.setMode [b] = ⟨status, result, u⟩) :
      exec (.sidingMode tag [b]) s = .next (u.answer 0x12 tag status result) :=
    State.exec_owned (length := 1) (owner := State.setMode [b]) rfl rfl verdict
  have holds : holdable = s.holdableSpots := by
    refine List.filter_congr fun n _ => ?_
    rw [Bool.eq_iff_iff, decide_eq_true_iff, SpotState.holdable_iff]
  have changes (mode : SidingMode) (code : b.toNat = mode.code) (other : s.siding.mode ≠ mode) : s.setMode [b] =
      ⟨.ok, [byte1 mode.code, old, spotSetByte (if mode = .shut then holdable else [])], s.changeMode mode⟩ := by
    have read : readSidingMode (num1 [b] 0) = some mode := (congrArg readSidingMode code).trans (readSidingMode_code mode)
    simp [State.setMode, read, other.symm, holds, old, byte1]
  refine ⟨fun far => answered ?_, fun same => answered ?_, fun run other => answered ?_, fun quiet other => answered ?_,
    fun shut other => ⟨s.changeMode .shut, answered (changes .shut shut other), ?_⟩⟩
  · have read : readSidingMode (num1 [b] 0) = none := readSidingMode_none far
    simp [State.setMode, read, State.refuse]
  · have read : readSidingMode (num1 [b] 0) = some s.siding.mode := (congrArg readSidingMode same).trans (readSidingMode_code _)
    simp [State.setMode, read, byte1, ← same]
  · exact changes .run run other
  · exact changes .quiet quiet other
  · have t := State.tellsToHold (s.setSiding { s.siding with mode := .shut }) .sidingShut (told := s.holdableSpots)
      (nodup_filter_allSpots _) rfl
    rw [holds]
    exact ⟨t.siding, fun n mem => (t.held n mem).of_before rfl rfl rfl, t.others, t.pending, t.line, t.manifest, t.grades,
      t.proof, t.tickets, t.comp, t.link⟩

/-! ## The compressor inputs (R101, R102) -/

theorem SpotState.moving_iff (state : SpotState) : state.moving = true ↔ state = .transfer ∨ state = .strip := by
  cases state <;> simp [SpotState.moving]

/-- A changeover that a fault meets ends: at the target where its owed expiry is taken first, else where it stood. -/
theorem State.comp_besideFault (s : State) (frozen : s.frozen = true) : ∃ choices position,
    (position = s.comp.position ∨ (s.comp.changeover = .running 0 ∧ s.comp.target = some position))
    ∧ (s.comp.mode ≠ .changeover ∨ s.comp.changeover ≠ .running 0 → position = s.comp.position)
    ∧ s.expiryBesideFault.setComp s.expiryBesideFault.comp.abandonChangeover =
      { s with choices := choices, comp := if s.comp.mode = .changeover then
        { s.comp with mode := .idle, position := position, target := none, changeover := .stopped } else s.comp } := by
  obtain ⟨choices, c, beside, taken⟩ := s.expiryBesideFault_of_frozen frozen
  rw [beside]
  rcases taken with rfl | ⟨due, rfl⟩
  · refine ⟨choices, s.comp.position, .inl rfl, fun _ => rfl, ?_⟩
    simp [State.setComp, Compressor.abandonChangeover]
  · obtain ⟨mode, due⟩ : s.comp.mode = .changeover ∧ s.comp.changeover.isDue = true := by
      simpa [Compressor.changeoverDue] using due
    have owed : s.comp.changeover = .running 0 := by
      cases h : s.comp.changeover with
      | stopped => simp [h, Timer.isDue] at due
      | running ms => cases ms <;> simp [h, Timer.isDue] at due ⊢
    refine ⟨choices, s.comp.target.getD s.comp.position, ?_, fun h => absurd owed (h.resolve_left (not_not.mpr mode)), ?_⟩
    · cases target : s.comp.target with
      | none => exact .inl rfl
      | some position => exact .inr ⟨owed, rfl⟩
    · rw [if_pos mode]
      rfl

/-- Settles O36: the fault makes every moving spot HELD and ends a changeover; its end examines the queue head. -/
theorem compressorInputsAct : Obligations.CompressorInputsAct := by
  unfold Obligations.CompressorInputsAct
  intro s
  have set : exec .compressorFaultActive s = execCompressorFaultActive s := rfl
  have clear : exec .compressorFaultClear s = execCompressorFaultClear s := rfl
  refine ⟨fun level => rfl, fun active => ⟨by rw [set, execCompressorFaultActive, if_pos active],
    by rw [clear, execCompressorFaultClear, if_pos active]; rfl⟩, fun quiet => ⟨?_, ?_⟩⟩
  · rw [clear, execCompressorFaultClear, if_neg (by simp [quiet])]
  have told : (allSpots.filter fun n => (s.spot n).state = .transfer ∨ (s.spot n).state = .strip) = s.movingSpots :=
    List.filter_congr fun n _ => by rw [Bool.eq_iff_iff, decide_eq_true_iff, SpotState.moving_iff]
  have frozen : (s.setSiding { s.siding with faultActive := true }).frozen = true := Bool.or_true _
  obtain ⟨choices, position, place, stays, beside⟩ := State.comp_besideFault _ frozen
  set b := (s.setSiding { s.siding with faultActive := true }).expiryBesideFault.setComp
    (s.setSiding { s.siding with faultActive := true }).expiryBesideFault.comp.abandonChangeover with hb
  have t := State.tellsToHold b .compressor (told := s.movingSpots) (nodup_filter_allSpots _) (by rw [beside]; exact frozen)
  set u := b.tellAll s.movingSpots fun t n => t.enterHeld n .compressor with hu
  have mem (n : SpotNo) : n ∈ s.movingSpots ↔ (s.spot n).state = .transfer ∨ (s.spot n).state = .strip := by
    rw [← told, mem_filter_allSpots, decide_eq_true_iff]
  have acts : exec .compressorFaultActive s = .next u := by
    rw [set, execCompressorFaultActive, if_neg (by simp [quiet])]
  have comp := t.comp
  rw [told]
  have spots (n : SpotNo) : b.spot n = s.spot n ∧ b.meter n = s.meter n ∧ b.station n = s.station n := by
    rw [beside]
    exact ⟨rfl, rfl, rfl⟩
  have link : b.link = s.link := by rw [beside]; rfl
  rw [beside] at comp
  set c := if s.comp.mode = .changeover then
    { s.comp with mode := .idle, position := position, target := none, changeover := .stopped } else s.comp with hc
  have comp : u.comp = c.released s.movingSpots := comp
  have kept {α : Type} (field : Compressor → α) (same : field c = field s.comp)
      (free : field (c.released s.movingSpots) = field c) : field u.comp = field s.comp := by rw [comp, free, same]
  refine ⟨u, acts, ?_, fun n moves => ?_, fun n transfer strip => ?_, fun h => kept _ ?_ rfl, ⟨position, place, comp⟩,
    kept _ ?_ rfl, kept _ ?_ rfl, kept _ ?_ rfl, fun mode => ?_, ?_, ?_⟩
  · rw [t.siding, beside]
    rfl
  · obtain ⟨spot, meter, station⟩ := spots n
    exact (t.held n ((mem n).mpr moves)).of_before spot meter station
  · obtain ⟨spot, meter, -⟩ := spots n
    obtain ⟨spot', meter'⟩ := t.others n fun h => ((mem n).mp h).elim transfer strip
    exact ⟨spot'.trans spot, meter'.trans meter⟩
  · rw [hc]
    split
    · exact stays h
    · rfl
  iterate 3
    rw [hc]
    split <;> rfl
  · rw [comp, hc, if_pos mode]
    exact ⟨ite_self _, rfl, rfl⟩
  · rw [comp]
    have queue : c.queue = s.comp.queue := by
      rw [hc]
      split <;> rfl
    show c.queue.filter _ = _
    rw [queue]
    exact List.filter_congr fun e _ => by rw [decide_eq_decide, mem, not_or]
  · rw [t.pending, t.line, t.manifest, t.grades, t.proof, t.tickets, beside]
    exact ⟨rfl, rfl, rfl, rfl, rfl, rfl, link ▸ t.link⟩

end Sys2Proof.Machine
end

section
/-! SUPPORT. The compressor's grants: a spot enters TRANSFER or STRIP with its valves commanded open, or goes on to PURGE
(R12, R16, R17, R98, R99). -/

namespace Sys2Proof.Machine

/-! ## A command to open (R27) -/

theorem openRecord_eq (r : SpotRecord) (set : ValveSet) : State.openRecord r set =
    { r with
      valveL := if set.l ∧ r.valveL = .closed then .opening else r.valveL
      valveV := if set.v ∧ r.valveV = .closed then .opening else r.valveV
      travelL := if set.l ∧ r.valveL = .closed then .running (1000 * r.config.travelLimit) else r.travelL
      travelV := if set.v ∧ r.valveV = .closed then .running (1000 * r.config.travelLimit) else r.travelV
      openDeferred := ⟨r.openDeferred.l || (set.l && r.valveL == .closing),
        r.openDeferred.v || (set.v && r.valveV == .closing)⟩ } := by
  have opened : (r.valvesIn set fun c => c == ValveCommand.closed) =
      ⟨decide (set.l ∧ r.valveL = .closed), decide (set.v ∧ r.valveV = .closed)⟩ := by
    simp [SpotRecord.valvesIn, Bool.beq_eq_decide_eq]
  unfold State.openRecord
  rw [opened]
  by_cases l : set.l = true ∧ r.valveL = .closed <;> by_cases v : set.v = true ∧ r.valveV = .closed <;>
    simp [l, v, ValveSet.isEmpty, SpotRecord.startOpening, SpotRecord.travelLoad, Timer.seconds, ValveSet.union,
      SpotRecord.valvesIn]

namespace State

variable (s : State) (n : SpotNo)

/-- What a command to open leaves (R27). -/
theorem opens_openValves (set : ValveSet) : OpensValves s (s.openValves n set) n set := by
  have record : (s.openValves n set).spot n = openRecord (s.spot n) set := by rw [spot_openValves, if_pos rfl]
  rw [openRecord_eq] at record
  refine ⟨by rw [record], by rw [record], by rw [record], by rw [record], by rw [record], fun closed takes => ?_⟩
  have some_ : ((s.spot n).valvesIn set (· == .closed)).isEmpty = false := by
    rcases closed with ⟨inSet, closed⟩ | ⟨inSet, closed⟩ <;>
      simp [ValveSet.isEmpty, SpotRecord.valvesIn, inSet, closed]
  rw [openValves, driveOpen, some_]
  exact pending_request _ n (.valveOpen _) takes

end State

/-- It reads the valves, the travel limit and the station status that an entry keeps. -/
theorem OpensValves.of_record {s t u : State} {n : SpotNo} {set : ValveSet} (h : OpensValves t u n set)
    (valveL : (t.spot n).valveL = (s.spot n).valveL) (valveV : (t.spot n).valveV = (s.spot n).valveV)
    (travelL : (t.spot n).travelL = (s.spot n).travelL) (travelV : (t.spot n).travelV = (s.spot n).travelV)
    (deferred : (t.spot n).openDeferred = (s.spot n).openDeferred) (config : (t.spot n).config = (s.spot n).config)
    (station : t.station n = s.station n) : OpensValves s u n set where
  valveL := by rw [h.valveL, valveL]
  valveV := by rw [h.valveV, valveV]
  travelL := by rw [h.travelL, valveL, travelL, config]
  travelV := by rw [h.travelV, valveV, travelV, config]
  deferred := by rw [h.deferred, valveL, valveV, deferred]
  asked := by rw [← valveL, ← valveV, ← station]; exact h.asked

/-- Valves commanded open and then closed are CLOSING, whatever they were (R27, R28). -/
theorem valves_closing (r : SpotRecord) (reason : Option EndReason) :
    (((State.openRecord r .both).toPurge reason).startClosing).valveL = .closing
      ∧ (((State.openRecord r .both).toPurge reason).startClosing).valveV = .closing := by
  rw [openRecord_eq]
  constructor
  · cases r.valveL <;> simp [SpotRecord.startClosing, SpotRecord.openish, SpotRecord.valvesIn, SpotRecord.toPurge,
      SpotRecord.stopMoving, ValveSet.both]
  · cases r.valveV <;> simp [SpotRecord.startClosing, SpotRecord.openish, SpotRecord.valvesIn, SpotRecord.toPurge,
      SpotRecord.stopMoving, ValveSet.both]

/-! ## The compressor record after a grant (R98, R99) -/

theorem HoldsNothing.of_released (c : Compressor) {n : SpotNo} {out : List SpotNo} (mem : n ∈ out) :
    HoldsNothing (c.released out) n where
  noPush there := by simpa [mem] using (List.mem_filter.mp there).2
  noPull there := by simpa [mem] using (Option.filter_eq_some_iff.mp there).2
  noEntry e there same := by simpa [same, mem] using (List.mem_filter.mp there).2

theorem Compressor.grant_push (c : Compressor) {e : QueueEntry} (rest : List QueueEntry) (spacing : Nat)
    (push : e.kind = .push) : c.grant e rest spacing = { c with
      queue := rest, mode := .push, pushGrantAge := some 0, age := .running 1000,
      pushHolders := allSpots.filter fun k => k = e.spot ∨ k ∈ c.pushHolders,
      spacing := if spacing = 0 then .stopped else .running (1000 * spacing) } := by
  have holders : (allSpots.filter fun k => k == e.spot || c.pushHolders.contains k) =
      allSpots.filter fun k => k = e.spot ∨ k ∈ c.pushHolders := by
    refine List.filter_congr fun k _ => ?_
    rw [Bool.eq_iff_iff, decide_eq_true_iff, Bool.or_eq_true, beq_iff_eq, List.contains_iff_mem]
  simp only [grant, push, holders, beq_iff_eq]
  rfl

/-! ## The entries (R12, R16, R17) -/

namespace State

variable (s : State) (n : SpotNo)

/-- Entry to TRANSFER with the valves commanded open. -/
theorem opens_beginTransfer : OpensValves s (s.beginTransfer n) n ⟨true, true⟩ := by
  refine (opens_openValves _ n .both).of_record ?_ ?_ ?_ ?_ ?_ ?_ rfl <;> simp [SpotRecord.toTransfer]

theorem opens_enterStrip : OpensValves s (s.enterStrip n) n ⟨false, true⟩ := by
  refine (opens_openValves _ n _).of_record ?_ ?_ ?_ ?_ ?_ ?_ rfl <;> simp [SpotRecord.toStrip]

theorem meter_beginTransfer :
    (s.beginTransfer n).meter n = { s.meter n with heelCountdown := (s.spot n).config.heelWindows } := by
  simp [beginTransfer]

theorem record_beginTransfer :
    (s.beginTransfer n).spot n = openRecord ((s.spot n).toTransfer s.siding.config.window) .both := by
  rw [spot_beginTransfer, if_pos rfl]

theorem record_enterStrip :
    (s.enterStrip n).spot n = openRecord ((s.spot n).toStrip s.siding.config.window) ⟨false, true⟩ := by
  simp [enterStrip, spot_openValves]

/-- The record of a spot whose valves are commanded closed for a purge, but for the closing read. -/
theorem purgedRecord_field {α : Type} (field : SpotRecord → α)
    (same : ∀ r c, field { r with closingRead := c } = field r) (r : SpotRecord) :
    field (s.purgedRecord n r) = field r.startClosing := by
  unfold purgedRecord
  split
  · exact same ..
  · rfl

end State

/-- Settles O27: the head's spot enters TRANSFER, PURGE or STRIP, and nothing else changes. -/
theorem grantsMoveTheHeadSpot : Obligations.GrantsMoveTheHeadSpot := by
  unfold Obligations.GrantsMoveTheHeadSpot
  intro s e rest n u window granted
  have course : Course s u := .grant ..
  have others (k : SpotNo) (hk : k ≠ n) : u.spot k = s.spot k ∧ u.meter k = s.meter k :=
    ⟨s.spot_grant_ne k e rest hk, s.meter_grant_ne k e rest hk⟩
  set b := s.setComp (s.comp.grant e rest s.siding.config.startSpacing) with hb
  have comp (push : e.kind = .push) : b.comp = granted := s.comp.grant_push rest _ push
  refine ⟨.grant .., fun push time => ?_, fun push time => ?_, fun pull => ?_⟩
  · have began : u = b.beginTransfer n := by
      have : u = b.enterTransfer n := by simp only [u, State.grant, push, hb, n]
      rw [this, State.enterTransfer]
      exact if_neg (show ¬((s.spot n).limitMs == 0) = true by simpa using time)
    have record := b.record_beginTransfer n
    rw [openRecord_eq, ← began] at record
    have opens := b.opens_beginTransfer n
    rw [← began] at opens
    refine ⟨by rw [began, State.comp_beginTransfer, comp push], by rw [record]; rfl, by rw [record]; rfl, by rw [record]; rfl,
      by rw [record]; rfl, by rw [record]; rfl, ⟨by rw [record]; rfl, by rw [record]; rfl, by rw [record]; rfl,
        by rw [record]; rfl, by rw [record]; rfl⟩, opens.of_record rfl rfl rfl rfl rfl rfl rfl,
      by rw [began, State.meter_beginTransfer]; rfl, course, others⟩
  · set t := b.beginTransfer n with ht
    have purged : u = ((t.onSpot n (·.toPurge (some .timeLimit))).setComp (t.comp.drop n)).purgeRest n := by
      have : u = b.enterTransfer n := by simp only [u, State.grant, push, hb, n]
      rw [this, State.enterTransfer]
      exact if_pos (show ((s.spot n).limitMs == 0) = true by simpa using time)
    have record : u.spot n = ((t.onSpot n (·.toPurge (some .timeLimit))).setComp (t.comp.drop n)).purgedRecord n
        ((t.spot n).toPurge (some .timeLimit)) := by
      rw [purged, State.spot_purgeRest, if_pos rfl, State.spot_setComp, State.onSpot_eq, State.spot_setSpot_self]
    have field {α : Type} (f : SpotRecord → α) (same : ∀ r c, f { r with closingRead := c } = f r) :
        f (u.spot n) = f ((t.spot n).toPurge (some .timeLimit)).startClosing := by
      rw [record, State.purgedRecord_field _ _ f same]
    have released : u.comp = granted.released [n] := by
      rw [purged, State.comp_purgeRest, State.comp_setComp, ht, State.comp_beginTransfer, comp push, Compressor.drop_eq]
    have began := b.record_beginTransfer n
    rw [← ht] at began
    obtain ⟨left, vapour⟩ := valves_closing ((b.spot n).toTransfer b.siding.config.window) (some .timeLimit)
    rw [← began] at left vapour
    rw [openRecord_eq] at began
    have kept {α : Type} (f : SpotRecord → α) (same : ∀ r c, f { r with closingRead := c } = f r)
        (entry : f ((t.spot n).toPurge (some .timeLimit)).startClosing = f (s.spot n)) : f (u.spot n) = f (s.spot n) :=
      (field f same).trans entry
    refine ⟨field (·.state) fun _ _ => rfl, field (·.endReason) fun _ _ => rfl, released ▸ .of_released _ (by simp), released,
      (field (·.valveL) fun _ _ => rfl).trans left, (field (·.valveV) fun _ _ => rfl).trans vapour,
      ⟨field (·.window) fun _ _ => rfl, field (·.strip) fun _ _ => rfl, field (·.limitRunning) fun _ _ => rfl⟩,
      ⟨kept (·.car) (fun _ _ => rfl) ?_, kept (·.stripRequested) (fun _ _ => rfl) ?_,
        kept (·.seqFlags) (fun _ _ => rfl) ?_, kept (·.bypass) (fun _ _ => rfl) ?_,
        kept (·.config) (fun _ _ => rfl) ?_⟩, course, others⟩ <;> rw [began] <;> rfl
  · have entered : u = b.enterStrip n := by simp only [u, State.grant, pull, hb, n]
    have record := b.record_enterStrip n
    rw [openRecord_eq, ← entered] at record
    have opens := b.opens_enterStrip n
    rw [← entered] at opens
    refine ⟨?_, by rw [record]; rfl, by rw [record]; rfl, by rw [record]; rfl,
      by rw [record]; rfl, ⟨by rw [record]; rfl, by rw [record]; rfl, by rw [record]; rfl,
        by rw [record]; rfl, by rw [record]; rfl⟩, opens.of_record rfl rfl rfl rfl rfl rfl rfl,
      by rw [entered, State.meter_enterStrip]; rfl, course, others⟩
    rw [entered, State.comp_enterStrip, hb, State.comp_setComp, Compressor.grant, pull]

end Sys2Proof.Machine
end

section
/-! SUPPORT. Replies on the spot link to INITIALIZE, CLOSE, VALVE_OPEN and SAMPLE_READ: the station record, the transaction,
then the sequencer's part (R29, R151, R153, R155, R157). -/

namespace Sys2Proof.Machine

/-! ## Shared steps of a completion -/

namespace State

variable {s b t : State} {n : SpotNo} {f : InFlight}

/-- The link becomes free and the station record is changed: the reply is heard (R144, R153). -/
theorem onStation_freeLink (g : Station → Station) : s.freeLink.onStation n g = s.hears n (g (s.station n)) := rfl

theorem hears_hears (x y : Station) : (s.hears n x).setStation n y = s.hears n y := by
  simp [hears, setStation]

/-- A transaction that is sent again joins its class (R151). -/
theorem returnEntry_eq (place : f.entry.station = some n) (txn : Txn) (holdOff : Timer) :
    b.returnEntry f txn holdOff = b.joinsAgain f n txn holdOff := by
  have entry : ({ f.entry with txn := txn, holdOff := holdOff } : LinkEntry) = ⟨some n, txn, holdOff⟩ := by rw [← place]
  rw [returnEntry, joinsAgain, entry]
  exact if_congr beq_iff_eq rfl rfl

theorem course_joinsAgain (b : State) (f : InFlight) (n : SpotNo) (txn : Txn) (holdOff : Timer) :
    Course b (b.joinsAgain f n txn holdOff) := .ite (.join ..) (.refl _)

theorem spot_joinsAgain (txn : Txn) (holdOff : Timer) (k : SpotNo) : (b.joinsAgain f n txn holdOff).spot k = b.spot k := by
  unfold joinsAgain
  split <;> rfl

theorem meter_joinsAgain (txn : Txn) (holdOff : Timer) (k : SpotNo) : (b.joinsAgain f n txn holdOff).meter k = b.meter k := by
  unfold joinsAgain
  split <;> rfl

/-- The causes that rose are judged from the station record and the siding (R108). -/
theorem causesRisen_congr (station : t.station n = b.station n) (siding : t.siding = b.siding) :
    causesRisen s t n = causesRisen s b n := by
  unfold causesRisen
  refine List.filter_congr fun c _ => ?_
  rw [levelCondition_congr station siding]

theorem causeUnion_risen : causeUnion (b.risen s n) [] = causesRisen s b n := by
  rw [causeUnion_eq]
  refine List.filter_congr fun c mem => ?_
  rw [risen]
  simp [mem]

/-- The sequencer takes a reply that brings nothing but the levels that rose (R108). -/
theorem takes_reply (s b : State) (n : SpotNo) :
    SequencerTakes b (b.takeStationEvent s n [] none) n (causesRisen s b n) :=
  causeUnion_risen (s := s) (b := b) ▸ takes_takeStationEvent b n s []

/-- The same for a transaction that is sent again first. -/
theorem takes_reply_again (s b : State) (f : InFlight) (n : SpotNo) (txn : Txn) (holdOff : Timer) :
    SequencerTakes (b.joinsAgain f n txn holdOff) ((b.joinsAgain f n txn holdOff).takeStationEvent s n [] none) n
      (causesRisen s b n) := by
  have course := course_joinsAgain b f n txn holdOff
  rw [← causesRisen_congr (course.station n) course.siding]
  exact takes_reply ..

/-! ## INITIALIZE (R155) -/

/-- The first reply: booking starts at 0, a pending COUNT_ACK goes, and the pulses of an armed or TRIPPED spot are unread. -/
theorem firstInitReply_eq (x : Station) (unread : Meter)
    (h : unread = { s.meter n with flags := { (s.meter n).flags with pulsesUnread := true } }) :
    (s.hears n x).firstInitReply n =
      ((s.hears n x.initialized).setLink ((s.hears n x.initialized).link.withdraw n .countAck)).setMeter n
        (if (s.spot n).state.armed || (s.spot n).state = .tripped then unread else s.meter n) := by
  have first : (s.hears n x).onStation n Station.initialized = s.hears n x.initialized := by
    rw [onStation_eq, hears_hears]
    simp [hears]
  have meter (u : State) (same : u.meter n = s.meter n) : u.setMeter n (s.meter n) = u := by rw [← same, setMeter_meter]
  unfold firstInitReply
  dsimp only
  rw [first, h, show (s.hears n x).spot n = s.spot n from rfl]
  by_cases taking : ((s.spot n).state.armed || (s.spot n).state == .tripped) = true
  · rw [if_pos taking, if_pos (by simpa using taking)]
    rfl
  · rw [if_neg taking, if_neg (by simpa using taking)]
    refine (meter _ ?_).symm
    rfl

end State

/-- The valves driven open after the closes of an INITIALIZE complete (R29). -/
theorem reopened_eq (r : SpotRecord) :
    r.openDeferred.union (if r.state.moving then r.openish else .none) =
      ⟨r.openDeferred.l ||
          decide ((r.state = .transfer ∨ r.state = .strip) ∧ (r.valveL = .opening ∨ r.valveL = .opened)),
        r.openDeferred.v ||
          decide ((r.state = .transfer ∨ r.state = .strip) ∧ (r.valveV = .opening ∨ r.valveV = .opened))⟩ := by
  by_cases moving : r.state = .transfer ∨ r.state = .strip
  · have : r.state.moving = true := (SpotState.moving_iff _).mpr moving
    simp [this, moving, ValveSet.union, ValveSet.both, SpotRecord.openish, SpotRecord.valvesIn, Bool.beq_eq_decide_eq]
  · have : r.state.moving = false := Bool.eq_false_iff.mpr (mt (SpotState.moving_iff _).mp moving)
    simp [this, moving, ValveSet.union, ValveSet.none]

/-- The valves a VALVE_OPEN names that are OPENING become OPEN (R29). -/
theorem openDone_eq (r : SpotRecord) (set : ValveSet) : r.openDone set =
    let openL : Bool := set.l ∧ r.valveL = .opening
    let openV : Bool := set.v ∧ r.valveV = .opening
    { r with
      valveL := if openL then .opened else r.valveL
      valveV := if openV then .opened else r.valveV
      travelL := if openL then .stopped else r.travelL
      travelV := if openV then .stopped else r.travelV } := by
  simp [SpotRecord.openDone, SpotRecord.valvesIn]

/-- Settles O49: the station starts at its first reply; the causes are taken, then DONE completes the closes. -/
theorem initializeReplyStartsTheStation : Obligations.InitializeReplyStartsTheStation := by
  unfold Obligations.InitializeReplyStartsTheStation
  intro s n answered flags f awaits present reply t fresh unread b
  have replied : exec reply s = .next (s.freeLink.initReplied s n f ⟨true, flags.getLsbD 1, flags.getLsbD 2, []⟩) :=
    congrArg _ (State.takeReply_present awaits flags [] State.initReplied rfl present)
  have started : (if f.entry.txn.answeredBefore then s.hears n t else (s.hears n t).firstInitReply n) = b := by
    rw [awaits.txn, State.firstInitReply_eq t unread rfl]
    rfl
  refine ⟨fun notDone => ⟨_, ?_, State.takes_reply_again s b f n _ _⟩, fun done =>
    ⟨_, _, State.takes_reply s b n, reopened_eq _ ▸ State.finishes_initDone _ n, ?_⟩⟩
  · rw [replied, notDone, ← started, ← State.returnEntry_eq awaits.station]
    rfl
  · rw [replied, done, ← started]
    rfl

/-! ## CLOSE and VALVE_OPEN (R29) -/

/-- Settles O50: the positions are replaced, the causes are taken, then DONE moves the command states. -/
theorem valveRepliesMoveTheCommandStates : Obligations.ValveRepliesMoveTheCommandStates := by
  unfold Obligations.ValveRepliesMoveTheCommandStates
  intro s n flags positions f present heard brought
  refine ⟨fun awaits => ?_, fun set awaits => ?_⟩
  · intro reply
    have replied : exec reply s =
        .next (s.freeLink.closeReplied s n f ⟨true, flags.getLsbD 1, flags.getLsbD 2, [positions]⟩) :=
      congrArg _ (State.takeReply_present awaits flags [positions] State.closeReplied rfl present)
    refine ⟨fun notDone => ⟨_, ?_, State.takes_reply_again s heard f n _ _⟩, fun done =>
      ⟨_, _, ?_, State.takes_reply s heard n, State.finishes_closeDone _ n⟩⟩
    · rw [replied, notDone, ← State.returnEntry_eq awaits.station, ← awaits.txn]
      rfl
    · rw [replied, done]
      rfl
  · intro reply
    have replied : exec reply s =
        .next (s.freeLink.openReplied s n f ⟨true, flags.getLsbD 1, flags.getLsbD 2, [positions]⟩) :=
      congrArg _ (State.takeReply_present awaits flags [positions] State.openReplied rfl present)
    refine ⟨fun notDone => ⟨_, ?_, State.takes_reply_again s heard f n _ _⟩, fun done =>
      ⟨_, State.takes_reply s heard n, ?_⟩⟩
    · rw [replied, notDone, ← State.returnEntry_eq awaits.station, ← awaits.txn]
      rfl
    · rw [replied, done]
      show _ = Host.Outcome.next (State.setSpot _ n _)
      rw [← openDone_eq, ← show f.entry.txn.valves = set by rw [awaits.txn]; rfl]
      rfl

end Sys2Proof.Machine
end

section
/-! SUPPORT. The reply to a SAMPLE_READ: it is booked, the window and the closing read it names complete, and the sequencer
takes it (R57, R70, R157, R158, R163). -/

namespace Sys2Proof.Machine

namespace State

variable {s b : State} {n : SpotNo}

/-! ## The metering engine's part (R57, R70, R71) -/

/-- The window that a reply completes, where its markings name one and one is outstanding. -/
def windowOf (s : State) (n : SpotNo) (marks : Markings) (x : Sample) (pulses : Nat) : Option (Meter × WindowReport) :=
  if marks.window = none then none else
    (s.meter n).windowRead.map fun w => { (s.meter n).renew x with windowRead := none }.computeWindow (s.spot n).config
      (s.carGrade n) (s.targetOf n) w pulses (x.temp = none ∨ x.dp = none ∨ x.pv = none) x.carPressure

theorem usesHeld_eq (x : Sample) : x.usesHeld = decide (x.temp = none ∨ x.dp = none ∨ x.pv = none) := by
  cases h1 : x.temp <;> cases h2 : x.dp <;> cases h3 : x.pv <;> simp [Sample.usesHeld, h1, h2, h3]

theorem completeWindow_eq (pulses : Nat) (estimated : Bool) (fresh : Option Nat) :
    s.completeWindow n pulses estimated fresh =
      match (s.meter n).windowRead.map fun w => { s.meter n with windowRead := none }.computeWindow (s.spot n).config
        (s.carGrade n) (s.targetOf n) w pulses estimated fresh with
      | none => (s, none)
      | some c => (s.setMeter n c.1, some c.2) := by
  unfold completeWindow
  cases (s.meter n).windowRead with
  | none => rfl
  | some w =>
    have grade (m : Meter) : (s.setMeter n m).carGrade n = s.carGrade n := rfl
    have target (m : Meter) : (s.setMeter n m).targetOf n = s.targetOf n := rfl
    simp [computeWindow, setMeter_setMeter, grade, target]

/-- The values are renewed, the window completes, and the closing read is booked, with no pulses where the window took
them. -/
theorem meterReply_eq (marks : Markings) (x : Sample) (pulses : Nat) :
    let window := s.windowOf n marks x pulses
    let after := (window.map Prod.fst).getD ((s.meter n).renew x)
    s.meterReply n marks x pulses =
      (s.setMeter n (if marks.closing && (s.meter n).closingRequest then
        { after.bookLiquid (s.spot n).config (s.carGrade n) (if window.isSome then 0 else pulses) with
          closingRequest := false }
        else after), window.map Prod.snd) := by
  intro window after
  have completes : (if marks.window.isSome then
        (s.onMeter n (·.renew x)).completeWindow n pulses x.usesHeld x.carPressure
      else (s.onMeter n (·.renew x), none)) = (s.setMeter n after, window.map Prod.snd) := by
    have record : (s.setMeter n ((s.meter n).renew x)).meter n = (s.meter n).renew x := meter_setMeter_self ..
    have read : ((s.meter n).renew x).windowRead = (s.meter n).windowRead := rfl
    have grade (m : Meter) : (s.setMeter n m).carGrade n = s.carGrade n := rfl
    have target (m : Meter) : (s.setMeter n m).targetOf n = s.targetOf n := rfl
    simp only [window, after, windowOf, completeWindow_eq, onMeter_eq, record, read, grade, target, spot_setMeter,
      usesHeld_eq, setMeter_setMeter]
    cases marks.window with
    | none => rfl
    | some phase => cases (s.meter n).windowRead <;> rfl
  unfold meterReply
  dsimp only
  rw [completes]
  split
  · rw [onMeter_eq, meter_setMeter_self, setMeter_setMeter]
    simp only [Option.isSome_map]
    rfl
  · rfl

/-! ## The causes a read brings (R108, R112, R113) -/

theorem mem_reportCauses {state : SpotState} {r : Option WindowReport} {c : TripCause} : c ∈ reportCauses state r ↔
    c = .sensorFault ∧ state.moving = true ∧ ∃ w ∈ r, w.sensorFault = true := by
  unfold reportCauses
  split
  · rename_i h
    rw [Bool.and_eq_true, Option.any_eq_true] at h
    simp only [List.mem_singleton]
    exact ⟨fun hc => ⟨hc, h⟩, And.left⟩
  · rename_i h
    rw [Bool.and_eq_true, Option.any_eq_true] at h
    simp only [List.not_mem_nil, false_iff]
    exact fun hc => h hc.2

theorem mem_pressureCauses {state : SpotState} {g : Option Grade} {fresh : Option Nat} {c : TripCause} :
    c ∈ pressureCauses state g fresh ↔
      c = .overpressure ∧ state.moving = true ∧ ∃ p ∈ fresh, gradeMaxPressure g < p := by
  unfold pressureCauses
  split
  · rename_i h
    rw [Bool.and_eq_true, Option.any_eq_true] at h
    simp only [List.mem_singleton]
    exact ⟨fun hc => ⟨hc, by simpa using h⟩, And.left⟩
  · rename_i h
    rw [Bool.and_eq_true, Option.any_eq_true] at h
    simp only [List.not_mem_nil, false_iff]
    exact fun hc => h (by simpa using hc.2)

/-- A window's report has SENSOR_FAULT where five windows in a row were estimated (R65). -/
theorem sensorFault_windowOf {marks : Markings} {x : Sample} {pulses : Nat} :
    (∃ w ∈ (s.windowOf n marks x pulses).map Prod.snd, w.sensorFault = true) ↔
      ∃ w ∈ s.windowOf n marks x pulses, w.1.heldRun = 5 := by
  unfold windowOf
  split
  · simp
  · cases (s.meter n).windowRead with
    | none => simp
    | some w => simp [Meter.computeWindow]

theorem settleClosing_eq (u : State) : u.settleClosing n =
    if (u.spot n).state = .purge ∧ (u.spot n).purgeExpired = true then
      (u.setSpot n { u.spot n with closingRead := .settled }).endPurge n
    else u.setSpot n { u.spot n with closingRead := .settled } :=
  if_congr (by rw [Bool.and_eq_true, beq_iff_eq]) rfl rfl

end State

/-- Settles O51: the station record, the metering engine, the sequencer, then what the reply asks for. -/
theorem sampleReadReplyIsBooked : Obligations.SampleReadReplyIsBooked := by
  unfold Obligations.SampleReadReplyIsBooked
  intro s n marks flags data f awaits len present x r moving books pulses renewed window after closes updated again heard
    brought
  have replied : exec (.sampleReadReply (linkReplyFrame n .sampleRead flags data)) s =
      .next (s.freeLink.sampleReplied s n f ⟨true, flags.getLsbD 1, flags.getLsbD 2, data⟩) :=
    congrArg _ (State.takeReply_present awaits flags data State.sampleReplied (by rw [len]; rfl) present)
  have station : (s.freeLink.onStation n fun t =>
      if marks.books then ((t.heard ⟨true, flags.getLsbD 1, flags.getLsbD 2, data⟩).report x).book x
      else (t.heard ⟨true, flags.getLsbD 1, flags.getLsbD 2, data⟩).report x) = updated := by
    rw [State.onStation_freeLink]
    refine congrArg (s.hears n) ?_
    show (if books then _ else _) = _
    cases books <;> simp [Station.heard, Station.report, Station.book]
  have sent : updated.sendAgainUnlessDone f ⟨true, flags.getLsbD 1, flags.getLsbD 2, data⟩ = again := by
    rw [State.sendAgainUnlessDone, awaits.txn, State.returnEntry_eq awaits.station]
    rfl
  have meter : again.meter n = s.meter n := by
    show (if _ then _ else _ : State).meter n = _
    split
    · rfl
    · exact State.meter_joinsAgain ..
  have spot : again.spot n = s.spot n := by
    show (if _ then _ else _ : State).spot n = _
    split
    · rfl
    · exact State.spot_joinsAgain ..
  have course : Course updated again := .ite (.refl _) (State.course_joinsAgain ..)
  have grade : again.carGrade n = s.carGrade n := by
    simp only [State.carGrade, spot, course.grade]
    rfl
  have windows : again.windowOf n marks x pulses = window := by
    simp only [State.windowOf, State.targetOf, meter, spot, grade]
    rfl
  have metered : again.meterReply n marks x pulses = (heard, window.map Prod.snd) := by
    rw [State.meterReply_eq, windows, meter, spot, grade]
  have moves : moving = r.state.moving := by
    rw [Bool.eq_iff_iff, SpotState.moving_iff]
    exact decide_eq_true_iff
  set extra := causeUnion (reportCauses r.state (window.map Prod.snd))
    (pressureCauses r.state (s.carGrade n) x.carPressure) with hextra
  have causes : causeUnion (heard.risen s n) extra = brought := by
    rw [State.causeUnion_eq]
    refine List.filter_congr fun c mem => decide_eq_decide.mpr (or_congr Iff.rfl ?_)
    rw [hextra, State.causeUnion_eq, List.mem_filter, decide_eq_true_iff, State.mem_reportCauses, State.mem_pressureCauses,
      moves, or_comm, ← windows, State.sensorFault_windowOf]
    exact and_iff_right mem
  refine ⟨heard.takeStationEvent s n extra none, heard.takeStationEvent s n extra (window.map Prod.snd),
    causes ▸ State.takes_takeStationEvent .., fun unread => by rw [unread]; rfl,
    fun w read => by rw [read]; exact State.outcome_takeOutcome .., ?_⟩
  rw [replied]
  refine congrArg _ ?_
  unfold State.sampleReplied
  rw [show f.entry.txn.marks = marks by rw [awaits.txn]; rfl]
  dsimp only
  rw [station, sent, show again.meterReply n marks (readSample data)
    (pulseCount (readSample data).total (s.freeLink.station n).booked) = (heard, window.map Prod.snd) from metered]
  dsimp only
  set u := heard.takeStationEvent s n extra (window.map Prod.snd) with hu
  have closed : (if closes = true then u.settleClosing n else u) = if !closes then u else
      if (u.spot n).state = .purge ∧ (u.spot n).purgeExpired then
        (u.setSpot n { u.spot n with closingRead := .settled }).endPurge n
      else u.setSpot n { u.spot n with closingRead := .settled } := by
    cases closes
    · rfl
    · exact State.settleClosing_eq u
  rw [← closed]
  by_cases attention : marks.attention = true
  · rw [if_pos attention, if_pos attention, attention]
    rfl
  · rw [if_neg attention, if_neg attention, Bool.eq_false_iff.mpr attention]
    rfl

end Sys2Proof.Machine
end

section
/-! SUPPORT. Every step keeps the car records (R35, R36) and the bounds of the state (R34, R48, R148, R166, R174, R185): each
command is put together from the shared operations, of which the laws of the model say that they bind no car and keep
every bound. -/

namespace Sys2Proof.Machine

/-! ## Car records that move (R36) -/

/-- No car record held has this id, neither in the manifest nor at a spot. -/
structure State.Lacks (s : State) (id : List Byte) : Prop where
  manifest : ∀ d ∈ s.manifest, d.carId ≠ id
  spots : ∀ n d, (s.spot n).car = some d → d.carId ≠ id

namespace CarsHold

variable {s t : State} {c : CarRecord} {n : SpotNo} {l : List CarRecord}

theorem of_empty (manifest : t.manifest = []) (spots : ∀ n, (t.spot n).car = none) : CarsHold t := by
  constructor <;> simp [manifest, spots]

/-- Records leave the manifest, or stand in another order. -/
theorem setManifest (h : CarsHold s) (mem : ∀ c ∈ l, c ∈ s.manifest) (once : (l.map CarRecord.carId).Nodup) :
    CarsHold (s.setManifest l) :=
  ⟨fun c hc => h.validInManifest c (mem c hc), h.validAtSpots, once, h.onceAtSpots,
    fun c hc => h.onceAcross c (mem c hc)⟩

theorem perm (h : CarsHold s) (p : l.Perm s.manifest) : CarsHold (s.setManifest l) :=
  h.setManifest (fun _ => p.mem_iff.mp) ((p.map _).nodup_iff.mpr h.onceInManifest)

theorem sublist (h : CarsHold s) (p : l.Sublist s.manifest) : CarsHold (s.setManifest l) :=
  h.setManifest (fun _ => p.mem) ((p.map _).nodup h.onceInManifest)

/-- A record with an id that none held has comes to the head of the manifest. -/
theorem cons (h : CarsHold s) (valid : c.Valid) (new : s.Lacks c.carId) : CarsHold (s.setManifest (c :: s.manifest)) where
  validInManifest := List.forall_mem_cons.mpr ⟨valid, h.validInManifest⟩
  validAtSpots := h.validAtSpots
  onceInManifest := List.nodup_cons.mpr ⟨by simpa using new.manifest, h.onceInManifest⟩
  onceAtSpots := h.onceAtSpots
  onceAcross := List.forall_mem_cons.mpr ⟨fun n d hd => (new.spots n d hd).symm, h.onceAcross⟩

/-- A record with an id that none held has comes to a spot without a car. -/
theorem bind (h : CarsHold s) (valid : c.Valid) (new : s.Lacks c.carId) (r : SpotRecord) (car : r.car = some c) :
    CarsHold (s.setSpot n r) := by
  have at_ (k : SpotNo) (d : CarRecord) (there : ((s.setSpot n r).spot k).car = some d) :
      k = n ∧ d = c ∨ k ≠ n ∧ (s.spot k).car = some d := by
    rw [State.spot_setSpot] at there
    split at there
    · exact .inl ⟨‹_›, Option.some.inj (there.symm.trans car)⟩
    · exact .inr ⟨‹_›, there⟩
  refine ⟨h.validInManifest, fun k d hd => ?_, h.onceInManifest, fun k j d e different hd he => ?_, fun e he k d hd => ?_⟩
  · rcases at_ k d hd with ⟨-, rfl⟩ | ⟨-, own⟩
    · exact valid
    · exact h.validAtSpots k d own
  · rcases at_ k d hd with ⟨rfl, rfl⟩ | ⟨-, own⟩ <;> rcases at_ j e he with ⟨rfl, rfl⟩ | ⟨-, own'⟩
    · exact absurd rfl different
    · exact (new.spots j e own').symm
    · exact new.spots k d own
    · exact h.onceAtSpots k j d e different own own'
  · rcases at_ k d hd with ⟨-, rfl⟩ | ⟨-, own⟩
    · exact new.manifest e he
    · exact h.onceAcross e he k d own

/-- Once a record has left the manifest, none held has its id. -/
theorem lacks_of_eraseIdx (h : CarsHold s) {p : Nat} (there : s.manifest[p]? = some c) :
    (s.setManifest (s.manifest.eraseIdx p)).Lacks c.carId := by
  obtain ⟨inside, rfl⟩ := List.getElem?_eq_some_iff.mp there
  have perm := (List.getElem_cons_eraseIdx_perm inside).map CarRecord.carId
  have once := perm.nodup_iff.mpr h.onceInManifest
  rw [List.map_cons, List.nodup_cons] at once
  refine ⟨fun d hd same => once.1 (same ▸ List.mem_map_of_mem hd), fun k d hd => ?_⟩
  exact (h.onceAcross _ (List.getElem_mem inside) k d hd).symm

/-- Once a spot's record has left it, none held has its id. -/
theorem lacks_of_released (h : CarsHold s) (car : (s.spot n).car = some c) {r : SpotRecord} (gone : r.car = none) :
    (s.setSpot n r).Lacks c.carId := by
  refine ⟨fun d hd => h.onceAcross d hd n c car, fun k d hd => ?_⟩
  rw [State.spot_setSpot] at hd
  split at hd
  · rw [gone] at hd; cases hd
  · exact h.onceAtSpots k n d c ‹_› hd car

end CarsHold

/-! ## Travel timers -/

theorem SpotRecord.car_setTravel (r : SpotRecord) (side : ValveSide) (x : Timer) : (r.setTravel side x).car = r.car := by
  cases side <;> rfl

/-! ## Metering records (R49, R70) -/

theorem Meter.InRange.onAssign {m : Meter} (h : m.InRange) : m.onAssign.InRange :=
  { Meter.InRange.fresh with
    heldTLow := h.heldTLow, heldTHigh := h.heldTHigh, heldDp := h.heldDp, heldPvLow := h.heldPvLow
    heldPvHigh := h.heldPvHigh }

/-- The held values at their power-on values lie in their ranges (R49). -/
theorem Meter.InRange.onConfig {m : Meter} (h : m.InRange) : m.onConfig.InRange :=
  { h with
    outstanding := nofun
    heldTLow := Meter.InRange.fresh.heldTLow, heldTHigh := Meter.InRange.fresh.heldTHigh
    heldDp := Meter.InRange.fresh.heldDp, heldPvLow := Meter.InRange.fresh.heldPvLow
    heldPvHigh := Meter.InRange.fresh.heldPvHigh }

theorem Meter.InRange.bookClosing {m : Meter} (h : m.InRange) (c : SpotConfig) (g : Option Grade) (p : Nat) :
    (m.bookClosing c g p).InRange := by
  have booked := h.bookLiquid c g p
  unfold Meter.bookClosing
  generalize m.bookLiquid c g p = b at booked ⊢
  exact { booked with }

/-! ## The receive buffer (R185) -/

theorem LineUnit.length_check (l : LineUnit) (buffer : List Byte) : (l.check buffer).buffer.length ≤ 1030 := by
  unfold LineUnit.check
  dsimp only
  split_ifs with short bad part checks
  · exact short.le.trans (by decide)
  · exact Nat.zero_le _
  · have := (inRange_iff ..).mp (by simpa using bad)
    exact part.le.trans (by omega)
  · exact Nat.zero_le _
  · exact Nat.zero_le _

theorem LineUnit.length_take {l : LineUnit} (fits : l.buffer.length ≤ 1030) (b : Byte) : (l.take b).buffer.length ≤ 1030 := by
  unfold LineUnit.take
  split
  · exact fits
  · split
    · simp
    · exact fits
  · exact length_check ..
  · exact fits

theorem LineUnit.length_framingError {l : LineUnit} (fits : l.buffer.length ≤ 1030) : l.framingError.buffer.length ≤ 1030 := by
  unfold LineUnit.framingError
  split
  · exact fits
  · exact fits
  · exact Nat.zero_le _
  · exact fits

theorem LineUnit.length_gapExpiry {l : LineUnit} (fits : l.buffer.length ≤ 1030) : l.gapExpiry.buffer.length ≤ 1030 := by
  unfold LineUnit.gapExpiry
  split
  · exact fits
  · split
    · exact Nat.zero_le _
    · exact Nat.zero_le _
    · exact fits
    · exact fits

theorem LineUnit.length_replySent {l : LineUnit} (fits : l.buffer.length ≤ 1030) : l.replySent.buffer.length ≤ 1030 := by
  unfold LineUnit.replySent
  split
  · split <;> exact Nat.zero_le _
  · exact fits

/-! ## Records found (R37 to R42) -/

/-- The record found at a place stands there. -/
theorem getElem?_of_found {l : List CarRecord} {place : Option Nat} {p : Nat} {c : CarRecord}
    (found : (place.bind fun p => (l[p]?).map fun c => (p, c)) = some (p, c)) : l[p]? = some c := by
  simp only [Option.bind_eq_some_iff, Option.map_eq_some_iff, Prod.mk.injEq] at found
  obtain ⟨q, -, d, there, rfl, rfl⟩ := found
  exact there

/-- A record selected on assignment stands at its place in the manifest (R41, R42). -/
theorem getElem?_of_selected {s : State} {n : SpotNo} {body : List Byte} {p : Nat} {c : CarRecord}
    (selected : s.selectCar body n = .ok (p, c)) : s.manifest[p]? = some c := by
  unfold State.selectCar at selected
  split at selected
  · unfold selectNext at selected
    split at selected
    · rename_i found
      cases selected
      exact getElem?_of_found found
    · cases selected
  · unfold selectById at selected
    split at selected
    · cases selected
    · split at selected
      · cases selected
      · rename_i found
        split at selected
        · cases selected
          exact getElem?_of_found found
        · cases selected

/-! ## What every change keeps -/

/-- Car records that are valid and held once stay so (R36), and every bound of `s` holds in `t`. -/
structure Keeps (s t : State) : Prop where
  cars : CarsHold s → CarsHold t
  bounds : Kept s t

namespace Keeps

variable {s t u : State}

theorem refl (s : State) : Keeps s s := ⟨id, .refl s⟩

theorem trans (a : Keeps s t) (b : Keeps t u) : Keeps s u := ⟨b.cars ∘ a.cars, a.bounds.trans b.bounds⟩

/-- A change that binds no car and keeps the bounds. -/
theorem also (k : Keeps s t) (cars : Unbinds t u) (bounds : Kept t u) : Keeps s u := k.trans ⟨cars.holds, bounds⟩

theorem ite {c : Prop} [Decidable c] (a : Keeps s t) (b : Keeps s u) : Keeps s (if c then t else u) := by
  split <;> assumption

/-! ### Changes of one record -/

theorem onSpot (k : Keeps s t) (n : SpotNo) (f : SpotRecord → SpotRecord) (car : (f (t.spot n)).car = (t.spot n).car)
    (trip : (f (t.spot n)).trip = (t.spot n).trip) : Keeps s (t.onSpot n f) :=
  k.also (.onKept _ _ _ car) (.onSpot _ _ _ trip)

theorem onMeter (k : Keeps s t) (n : SpotNo) (f : Meter → Meter) (range : (t.meter n).InRange → (f (t.meter n)).InRange) :
    Keeps s (t.onMeter n f) := k.also (.onMeter ..) (.onMeter _ _ _ range)

theorem onStation (k : Keeps s t) (n : SpotNo) (f : Station → Station) : Keeps s (t.onStation n f) :=
  k.also (.onStation ..) (.onStation ..)

theorem setProofRecord (k : Keeps s t) (v : ValveIndex) (p : ProofRecord) : Keeps s (t.setProofRecord v p) :=
  k.also (.setProofRecord ..) (.setProofRecord ..)

theorem setComp (k : Keeps s t) (c : Compressor) : Keeps s (t.setComp c) := k.also (.setComp ..) (.setComp ..)

theorem setSiding (k : Keeps s t) (d : Siding) : Keeps s (t.setSiding d) := k.also (.setSiding ..) (.setSiding ..)

theorem setGrade (k : Keeps s t) (g : GradeNo) (r : Grade) : Keeps s (t.setGrade g r) :=
  k.also (.setGrade ..) (.setGrade ..)

theorem setLink (k : Keeps s t) (l : Link) (distinct : Distinct t.link.entries → Distinct l.entries := by exact id) :
    Keeps s (t.setLink l) := k.also (.setLink ..) (.setLink _ _ distinct)

theorem setTickets (k : Keeps s t) (x : TicketUnit) (bounded : t.tickets.Bounded → x.Bounded) : Keeps s (t.setTickets x) :=
  k.also (.setTickets ..) (.setTickets _ _ bounded)

theorem setLine (k : Keeps s t) (l : LineUnit) (fits : t.line.buffer.length ≤ 1030 → l.buffer.length ≤ 1030) :
    Keeps s (t.setLine l) := k.also (.setLine ..) (.setLine _ _ fits)

/-- A change outside what is held valid, once, and in bounds. -/
theorem of_apart (manifest : t.manifest = s.manifest) (tickets : t.tickets = s.tickets)
    (buffer : t.line.buffer = s.line.buffer) (meters : t.meters = s.meters) (entries : t.link.entries = s.link.entries)
    (spots : t.spots = s.spots) : Keeps s t := by
  have spot (n : SpotNo) : t.spot n = s.spot n := by rw [State.spot, State.spot, spots]
  exact ⟨(Unbinds.of_same manifest spot).holds, .of_same manifest tickets buffer
    (fun n => by rw [State.meter, State.meter, meters]) entries fun n => by rw [spot]⟩

/-! ### The shared operations

Each takes what led from `s` to `t` and goes one operation further, so that the proof of a command follows its text. -/

theorem request (k : Keeps s t) (n : SpotNo) (x : Txn) : Keeps s (t.request n x) := k.also (.request ..) (.request ..)

theorem queueInit (k : Keeps s t) (n : SpotNo) : Keeps s (t.queueInit n) := k.also (.queueInit ..) (.queueInit ..)

theorem judgePoll (k : Keeps s t) : Keeps s t.judgePoll := k.also (.judgePoll _) (.judgePoll _)

theorem judgePollIf (k : Keeps s t) (owed : Bool) : Keeps s (t.judgePollIf owed) :=
  k.also (.judgePollIf ..) (.judgePollIf ..)

theorem examine (k : Keeps s t) : Keeps s t.examine := k.also (.examine _) (.examine _)

theorem enterPurge (k : Keeps s t) (n : SpotNo) (reason : Option EndReason) : Keeps s (t.enterPurge n reason) :=
  k.also (.enterPurge ..) (.enterPurge ..)

theorem enterHeld (k : Keeps s t) (n : SpotNo) (reason : HoldReason) : Keeps s (t.enterHeld n reason) :=
  k.also (.enterHeld ..) (.enterHeld ..)

theorem enterStartWait (k : Keeps s t) (n : SpotNo) : Keeps s (t.enterStartWait n) :=
  k.also (.enterStartWait ..) (.enterStartWait ..)

theorem takeCauses (k : Keeps s t) (n : SpotNo) (brought : List TripCause) : Keeps s (t.takeCauses n brought) :=
  k.also (.takeCauses ..) (.takeCauses ..)

theorem moveOnInputs (k : Keeps s t) (n : SpotNo) : Keeps s (t.moveOnInputs n) :=
  k.also (.moveOnInputs ..) (.moveOnInputs ..)

theorem takeStationEvent (k : Keeps s t) (old : State) (n : SpotNo) (extra : List TripCause) (r : Option WindowReport) :
    Keeps s (t.takeStationEvent old n extra r) := k.also (.takeStationEvent ..) (.takeStationEvent ..)

theorem endPurge (k : Keeps s t) (n : SpotNo) : Keeps s (t.endPurge n) := k.also (.endPurge ..) (.endPurge ..)

theorem settleClosing (k : Keeps s t) (n : SpotNo) : Keeps s (t.settleClosing n) :=
  k.also (.settleClosing ..) (.settleClosing ..)

theorem startStroke (k : Keeps s t) (v : ValveIndex) (origin : StrokeOrigin) : Keeps s (t.startStroke v origin) :=
  k.also (.startStroke ..) (.startStroke ..)

theorem endStroke (k : Keeps s t) (x : Stroke) (drive : Bool) : Keeps s (t.endStroke x drive) :=
  k.also (.endStroke ..) (.endStroke ..)

theorem abortStroke (k : Keeps s t) (drive : Bool) : Keeps s (t.abortStroke drive) :=
  k.also (.abortStroke ..) (.abortStroke ..)

theorem completeWindow (k : Keeps s t) (n : SpotNo) (p : Nat) (estimated : Bool) (fresh : Option Nat) :
    Keeps s (t.completeWindow n p estimated fresh).1 := k.also (.completeWindow ..) (.completeWindow ..)

theorem foldl {α : Type} {f : State → α → State} (k : Keeps s t) (each : ∀ v a, Keeps v (f v a)) (l : List α) :
    Keeps s (l.foldl f t) := by
  induction l generalizing t with
  | nil => exact k
  | cons a l ih => exact ih (k.trans (each t a))

theorem tellAll {α : Type} {f : State → α → State} (k : Keeps s t) (each : ∀ v a, Keeps v (f v a)) (told : List α) :
    Keeps s (t.tellAll told f) := by
  have chosen : Keeps s { t with choices := t.choices + told.length } := k.trans (of_apart rfl rfl rfl rfl rfl rfl)
  exact chosen.foldl each _

/-! ## Requests -/

/-- A request keeps what its owner keeps; the reply empties the receive buffer (R185, R187). -/
theorem serve {code tag : Byte} {body : List Byte} {length : Nat} {owner : State → Verdict}
    (owned : Keeps s (owner s).state) : Keeps s (s.serve code tag body length owner) := by
  unfold State.serve
  split
  · exact owned.setLine _ fun _ => Nat.zero_le _
  · exact (refl s).setLine _ fun _ => Nat.zero_le _

/-- A request that leaves every block as it was, but for the line unit's reply. -/
theorem serve_of_same {code tag : Byte} {body : List Byte} {length : Nat} {owner : State → Verdict}
    (same : (owner s).state = s) : Keeps s (s.serve code tag body length owner) := serve (same.symm ▸ refl s)

theorem forSpot {body : List Byte} {owner : SpotNo → State → Verdict} (owned : ∀ n, Keeps s (owner n s).state) :
    Keeps s (s.forSpot body owner).state := by
  unfold State.forSpot
  split
  · exact refl s
  · exact owned _

/-! ### The manifest (R37 to R39) -/

theorem addCar (body : List Byte) (s : State) : Keeps s (s.addCar body).state := by
  unfold State.addCar
  split
  · exact refl s
  · rename_i c read
    split
    · exact refl s
    · exact refl s
    · rename_i position holding
      split
      · exact refl s
      · rename_i room
        refine ⟨fun h => ?_, .setManifest _ _ fun _ => ?_⟩
        · have new : s.Lacks c.carId := ⟨by simpa [carPosition] using position, fun n d hd => by
            have none := List.find?_eq_none.mp holding n (mem_allSpots n)
            simpa [hd] using none⟩
          exact (h.cons ((readCarRecord_iff body c).mp read).valid new).perm (List.perm_append_singleton ..)
        · simp only [manifestCapacity] at room
          simp only [List.length_append, List.length_singleton]
          omega

theorem withdrawCar (body : List Byte) (s : State) : Keeps s (s.withdrawCar body).state := by
  unfold State.withdrawCar
  split
  · exact refl s
  · split
    · exact ⟨fun h => h.sublist (List.eraseIdx_sublist ..),
        .setManifest _ _ (List.eraseIdx_sublist ..).length_le.trans⟩
    · split <;> exact refl s

theorem moveCar (body : List Byte) (s : State) : Keeps s (s.moveCar body).state := by
  unfold State.moveCar
  split
  · exact refl s
  · split
    · rename_i p c found
      obtain ⟨inside, rfl⟩ := List.getElem?_eq_some_iff.mp (getElem?_of_found found)
      split
      · rename_i target
        have perm : ((s.manifest.eraseIdx p).insertIdx (num1 body 13) s.manifest[p]).Perm s.manifest := by
          refine (List.perm_insertIdx _ _ ?_).trans (List.getElem_cons_eraseIdx_perm inside)
          rw [List.length_eraseIdx_of_lt inside]
          omega
        exact ⟨fun h => h.perm perm, .setManifest _ _ perm.length_eq.le.trans⟩
      · exact refl s
    · split <;> exact refl s

/-! ### Assignment and release (R5, R8) -/

theorem bindCar {p : Nat} {c : CarRecord} (there : s.manifest[p]? = some c) (n : SpotNo) : Keeps s (s.bindCar n p c) := by
  refine moveOnInputs ⟨fun h => ?_, ?_⟩ n
  · have left := h.sublist (List.eraseIdx_sublist s.manifest p)
    have new := h.lacks_of_eraseIdx there
    have metered := (Unbinds.onMeter (s.setManifest (s.manifest.eraseIdx p)) n Meter.onAssign).holds left
    exact metered.bind (h.validInManifest c (List.mem_of_getElem? there)) ⟨new.manifest, new.spots⟩ _ rfl
  · exact ((Kept.setManifest s _ (List.eraseIdx_sublist ..).length_le.trans).trans
      (.onMeter _ n _ Meter.InRange.onAssign)).trans (.clearTrip _ n _ (by rfl))

theorem assign (body : List Byte) (n : SpotNo) (s : State) : Keeps s (State.assign body n s).state := by
  unfold State.assign
  split_ifs
  iterate 5 exact refl s
  split
  · exact refl s
  · rename_i selected
    exact bindCar (getElem?_of_selected selected) n

theorem release (n : SpotNo) (s : State) : Keeps s (State.release n s).state := by
  unfold State.release
  split_ifs with _ _ full
  iterate 3 exact refl s
  have gone := Unbinds.setSpot s n { (s.spot n).toVacant with settle := .stopped } (.inr rfl)
  refine ⟨fun h => ?_, (Kept.setManifest s _ fun _ => ?_).trans
    (.clearTrip _ n (fun r => { r.toVacant with settle := .stopped }) rfl)⟩
  · have vacated := gone.holds h
    cases car : (s.spot n).car with
    | none => exact vacated
    | some c => exact vacated.cons (h.validAtSpots n c car) (h.lacks_of_released car rfl)
  · have one : (s.spot n).car.toList.length ≤ 1 := by cases (s.spot n).car <;> simp
    simp only [manifestCapacity] at full
    rw [List.length_append]
    omega

/-! ### The other spot requests -/

theorem start (body : List Byte) (n : SpotNo) (s : State) : Keeps s (State.start body n s).state := by
  unfold State.start
  split_ifs
  iterate 3 exact refl s
  exact ((refl s).onSpot n _ (by rfl) (by rfl)).enterStartWait n

theorem hold (n : SpotNo) (s : State) : Keeps s (State.hold n s).state := by
  unfold State.hold
  split_ifs
  · exact (refl s).enterHeld n _
  · exact refl s
  · exact refl s

theorem leaveHeld (n : SpotNo) (s : State) : Keeps s (s.onSpot n SpotRecord.leaveHeld) := (refl s).onSpot n _ rfl rfl

theorem resume (n : SpotNo) (s : State) : Keeps s (State.resume n s).state := by
  unfold State.resume
  split_ifs
  · exact refl s
  · exact refl s
  · dsimp only
    split
    · exact (leaveHeld n s).also (.resumeStripWait ..) (.resumeStripWait ..)
    · exact (leaveHeld n s).enterStartWait n
    · exact (leaveHeld n s).enterStartWait n

theorem stopLiquid (k : Keeps s t) (n : SpotNo) : Keeps s (t.stopLiquid n) := by
  unfold State.stopLiquid
  split
  · exact (k.onSpot n _ (by rfl) (by rfl)).also (.giveUp ..) (.giveUp ..)
  · exact k.enterPurge n _

theorem stop (n : SpotNo) (s : State) : Keeps s (State.stop n s).state := by
  unfold State.stop
  split
  case h_1 => exact (refl s).stopLiquid n
  case h_2 | h_3 | h_4 => exact (refl s).enterPurge n _
  case h_5 =>
    dsimp only
    split
    · exact (leaveHeld n s).enterPurge n _
    · exact (leaveHeld n s).stopLiquid n
    · exact (leaveHeld n s).stopLiquid n
  all_goals exact refl s

theorem leaveTripped (n : SpotNo) (s : State) : Keeps s (s.leaveTripped n) := by
  have cleared : Keeps s (s.onSpot n fun r => { r with trip := none }) :=
    (refl s).also (.onKept _ _ _ rfl) (.clearTrip _ _ _ rfl)
  unfold State.leaveTripped
  dsimp only
  split
  · exact cleared.enterPurge n _
  · split
    · exact cleared.onSpot n _ (by rfl) (by rfl)
    · exact cleared.onSpot n _ (by rfl) (by rfl)

theorem resetTrip (n : SpotNo) (s : State) : Keeps s (State.resetTrip n s).state := by
  unfold State.resetTrip
  split_ifs
  · exact refl s
  · exact refl s
  · exact leaveTripped n s

theorem overrideBypass (body : List Byte) (n : SpotNo) (s : State) : Keeps s (State.overrideBypass body n s).state := by
  unfold State.overrideBypass
  split_ifs
  · exact refl s
  · exact refl s
  · exact (refl s).onSpot n (fun r => { r with bypass := r.bypass.override (num2 body 1) (num2 body 3) }) rfl rfl

theorem configure (body : List Byte) (n : SpotNo) (s : State) : Keeps s (State.configure body n s).state := by
  unfold State.configure
  split
  · exact refl s
  · split
    · exact refl s
    · rename_i c _
      have configured : Keeps s ((s.abortStrokeOn n).onSpot n fun r => { r with config := c }) :=
        ((refl s).also (.abortStrokeOn ..) (.abortStrokeOn ..)).onSpot n _ rfl rfl
      dsimp only
      split
      · exact (((configured.onStation n _).onMeter n _ Meter.InRange.onConfig).queueInit n).setLink _
      · exact (((configured.onSpot n _ (by rfl) (by rfl)).onStation n _).setLink _ fun h => h.filter _).judgePollIf _

/-! ### The siding, the proofs and the tickets -/

theorem loadGrade (body : List Byte) (s : State) : Keeps s (s.loadGrade body).state := by
  unfold State.loadGrade
  split
  · exact refl s
  · split
    · exact refl s
    · exact (refl s).setGrade _ _

theorem configureSiding (body : List Byte) (s : State) : Keeps s (s.configureSiding body).state := by
  unfold State.configureSiding
  dsimp only
  split
  · exact refl s
  · split_ifs
    · exact refl s
    · exact (refl s).setSiding _
    · exact of_apart rfl rfl rfl rfl rfl rfl

theorem setMode (body : List Byte) (s : State) : Keeps s (s.setMode body).state := by
  unfold State.setMode
  split
  · exact refl s
  · rename_i mode _
    split
    · exact refl s
    · have changed := (refl s).setSiding { s.siding with mode := mode }
      cases mode with
      | run => exact changed.examine
      | quiet => exact changed
      | shut => exact changed.tellAll (fun v n => (refl v).enterHeld n _) _

theorem requestProof (body : List Byte) (s : State) : Keeps s (s.requestProof body).state := by
  unfold State.requestProof
  split
  · exact refl s
  · dsimp only
    split
    · exact refl s
    · split
      · exact refl s
      · split_ifs
        iterate 4 exact refl s
        exact (refl s).startStroke ..

/-- A ticket leaves the queue, and the oldest that waits takes its place (R178, R179). -/
theorem releaseOldest {oldest : Ticket} {rest : List Ticket} (queue : s.tickets.queue = oldest :: rest) :
    Keeps s (s.releaseOldest oldest rest).state := by
  have length : s.tickets.queue.length = rest.length + 1 := by rw [queue, List.length_cons]
  unfold State.releaseOldest
  split
  · rename_i nobody
    refine (refl s).setTickets _ fun b => ⟨?_, fun waits => absurd nobody waits, b.serialLow, b.serialHigh⟩
    have := b.queue
    dsimp only
    omega
  · rename_i w waiting wait
    refine ((refl s).setTickets _ fun b => ?_).also (.enterComplete ..) (.enterComplete ..)
    have full := b.waitOnlyWhenFull (by simp [wait])
    have again : (rest ++ [w.ticket]).length = 16 := by
      rw [List.length_append, List.length_singleton]
      omega
    exact ⟨again.le, fun _ => again, b.serialLow, b.serialHigh⟩

theorem releaseTicket (body : List Byte) (s : State) : Keeps s (s.releaseTicket body).state := by
  unfold State.releaseTicket
  split
  · exact refl s
  · rename_i queue
    split
    · exact releaseOldest queue
    · exact refl s

/-! ### Reset and restart (R197, R198) -/

/-- Every block but the ticket unit at values that hold nothing and break no bound. -/
theorem of_emptied (manifest : t.manifest = []) (spots : ∀ n, ∃ config, t.spot n = .fresh config)
    (meters : ∀ n, t.meter n = .fresh) (entries : t.link.entries = [])
    (tickets : s.tickets.Bounded → t.tickets.Bounded)
    (buffer : s.line.buffer.length ≤ 1030 → t.line.buffer.length ≤ 1030) : Keeps s t where
  cars _ := .of_empty manifest fun n => by
    obtain ⟨config, fresh⟩ := spots n
    rw [fresh]
    rfl
  bounds :=
    { manifest := fun _ => by simp [manifest]
      tickets := tickets
      buffer := buffer
      meters := fun n _ => meters n ▸ .fresh
      entries := fun _ => entries ▸ List.Pairwise.nil
      trips := fun n _ => by
        obtain ⟨config, fresh⟩ := spots n
        exact .cleared (by rw [fresh]; rfl) }

theorem powerOn (pins : PinLevels) (s : State) : Keeps s (.powerOn pins s.pending s.choices) :=
  of_emptied rfl (fun n => ⟨.powerOn, by simp [State.spot, State.powerOn]⟩)
    (fun n => by simp [State.meter, State.powerOn]) rfl (fun _ => by constructor <;> simp [State.powerOn])
    fun _ => by simp [State.powerOn, LineUnit.powerOn]

theorem restart (s : State) : Keeps s s.restart := by
  have blocks : Keeps (s.abortStroke false) s.restartBlocks :=
    of_emptied rfl (fun n => ⟨((s.abortStroke false).spot n).config, by simp [State.spot, State.restartBlocks]⟩)
      (fun n => by simp [State.meter, State.restartBlocks]) rfl id id
  exact ((((refl s).abortStroke false).trans blocks).foldl (fun v n => (refl v).queueInit n) _).judgePoll

theorem takeRestart (s : State) : Keeps s s.takeRestart.state := by
  unfold State.takeRestart
  split
  · exact refl s
  · dsimp only
    exact restart s

/-! ## Completions on the spot link -/

theorem freeLink (s : State) : Keeps s s.freeLink := (refl s).setLink _

theorem returnEntry (k : Keeps s t) (f : InFlight) (txn : Txn) (holdOff : Timer) : Keeps s (t.returnEntry f txn holdOff) := by
  unfold State.returnEntry
  split
  · exact k.also (.join ..) (.join ..)
  · exact k

theorem sendAgainUnlessDone (k : Keeps s t) (f : InFlight) (r : LinkReply) : Keeps s (t.sendAgainUnlessDone f r) := by
  unfold State.sendAgainUnlessDone
  split
  · exact k
  · exact k.returnEntry ..

theorem dealAgain (k : Keeps s t) (n : SpotNo) (f : InFlight) : Keeps s (t.dealAgain n f).1 := by
  unfold State.dealAgain
  split
  · rename_i m _
    have returned : Keeps s (t.returnRead f m) := by
      unfold State.returnRead
      dsimp only
      split
      · exact k
      · exact k.returnEntry ..
    exact returned.also (.missWindowIf ..) (.missWindowIf ..)
  · exact k.returnEntry ..

theorem missed (k : Keeps s t) (old : State) (n : SpotNo) (f : InFlight) : Keeps s (t.missed old n f) := by
  unfold State.missed
  dsimp only
  split
  · exact (k.onStation n _).also (.dispose ..) (.dispose ..)
  · split
    · exact k.also (.becomeLost ..) (.becomeLost ..)
    · exact ((k.onStation n _).dealAgain n f).takeStationEvent ..

theorem notInitialized (k : Keeps s t) (old : State) (n : SpotNo) (f : InFlight) : Keeps s (t.notInitialized old n f) := by
  unfold State.notInitialized
  have unknown := k.onStation n fun x => { x with misses := 0, status := .unknown }
  exact (dealAgain (ite unknown (unknown.queueInit n)) n f).takeStationEvent ..

/-- A reply keeps what is kept where it is taken whole (R144, R151, R156). -/
theorem takeReply (s : State) (kind : LinkKind) (frame : List Byte)
    {taken : State → State → SpotNo → InFlight → LinkReply → State} (each : ∀ v old n f r, Keeps v (taken v old n f r)) :
    Keeps s (s.takeReply kind frame taken) := by
  have free := freeLink s
  unfold State.takeReply
  split
  · exact refl s
  · split
    · exact refl s
    · split
      · exact free.judgePollIf _
      · split
        · exact free.missed ..
        · split
          · exact free.missed ..
          · split
            · exact free.trans (each ..)
            · exact free.notInitialized ..

theorem firstInitReply (k : Keeps s t) (n : SpotNo) : Keeps s (t.firstInitReply n) := by
  have withdrawn := (k.onStation n Station.initialized).setLink
    ((t.onStation n Station.initialized).link.withdraw n .countAck) fun h => h.filter _
  unfold State.firstInitReply
  dsimp only
  split
  · exact withdrawn.onMeter n _ fun h => { h with }
  · exact withdrawn

theorem initReplied (s old : State) (n : SpotNo) (f : InFlight) (r : LinkReply) : Keeps s (s.initReplied old n f r) := by
  have heard := (refl s).onStation n (·.heard r)
  have booked : Keeps s (if f.entry.txn.answeredBefore then s.onStation n (·.heard r)
      else (s.onStation n (·.heard r)).firstInitReply n) := ite heard (heard.firstInitReply n)
  unfold State.initReplied
  dsimp only
  split
  · exact ((booked.takeStationEvent old n [] none).also (.initDone ..) (.initDone ..)).request ..
  · exact (booked.returnEntry ..).takeStationEvent ..

/-- What the replies to CLOSE and VALVE_OPEN share (R153). -/
theorem valveReplied (s old : State) (n : SpotNo) (f : InFlight) (r : LinkReply) :
    Keeps s (((s.onStation n fun x => (x.heard r).reportPositions r.data).sendAgainUnlessDone f r).takeStationEvent
      old n [] none) :=
  (((refl s).onStation n _).sendAgainUnlessDone f r).takeStationEvent ..

theorem closeReplied (s old : State) (n : SpotNo) (f : InFlight) (r : LinkReply) : Keeps s (s.closeReplied old n f r) :=
  ite ((valveReplied s old n f r).also (.closeDone ..) (.closeDone ..)) (valveReplied s old n f r)

theorem openReplied (s old : State) (n : SpotNo) (f : InFlight) (r : LinkReply) : Keeps s (s.openReplied old n f r) :=
  ite ((valveReplied s old n f r).onSpot n (·.openDone f.entry.txn.valves) rfl rfl) (valveReplied s old n f r)

theorem meterReply (k : Keeps s t) (n : SpotNo) (m : Markings) (x : Sample) (p : Nat) :
    Keeps s (t.meterReply n m x p).1 := by
  have renewed := k.onMeter n (·.renew x) fun h => h.renew x
  have window : Keeps s (if m.window.isSome then
      (t.onMeter n (·.renew x)).completeWindow n p x.usesHeld x.carPressure else (t.onMeter n (·.renew x), none)).1 := by
    split
    · exact renewed.completeWindow ..
    · exact renewed
  unfold State.meterReply
  dsimp only
  split
  · exact window.onMeter n (·.bookClosing (t.spot n).config (t.carGrade n) _) fun h => h.bookClosing ..
  · exact window

theorem requestIf (k : Keeps s t) (c : Prop) [Decidable c] (n : SpotNo) (x : Txn) :
    Keeps s (if c then t.request n x else t) := ite (k.request n x) k

theorem settleClosingIf (k : Keeps s t) (c : Prop) [Decidable c] (n : SpotNo) :
    Keeps s (if c then t.settleClosing n else t) := ite (k.settleClosing n) k

theorem sampleReplied (s old : State) (n : SpotNo) (f : InFlight) (r : LinkReply) : Keeps s (s.sampleReplied old n f r) := by
  unfold State.sampleReplied
  refine judgePollIf (requestIf (requestIf (settleClosingIf (takeStationEvent (meterReply ?_ ..) ..) ..) ..) ..) _
  exact ((refl s).onStation n _).sendAgainUnlessDone f r

theorem ackReplied (s old : State) (n : SpotNo) (f : InFlight) (r : LinkReply) : Keeps s (s.ackReplied old n f r) := by
  unfold State.ackReplied
  exact (((refl s).onStation n _).sendAgainUnlessDone f r).takeStationEvent ..

theorem strokeReplied (s old : State) (n : SpotNo) (f : InFlight) (r : LinkReply) : Keeps s (s.strokeReplied old n f r) := by
  have taken := (((refl s).onStation n (·.heard r)).sendAgainUnlessDone f r).takeStationEvent old n [] none
  unfold State.strokeReplied
  dsimp only
  split
  · exact taken
  · split
    · exact taken.also (.judgeStroke ..) (.judgeStroke ..)
    · exact taken

theorem clearReplied (s old : State) (n : SpotNo) (f : InFlight) (r : LinkReply) : Keeps s (s.clearReplied old n f r) :=
  ((((refl s).onStation n _).sendAgainUnlessDone f r).takeStationEvent ..).judgePoll

theorem pollDone (k : Keeps s t) (slots : List (List Byte)) : Keeps s (t.pollDone slots) := by
  have absent := k.foldl (fun v n => (((refl v).onStation n _).queueInit n).takeStationEvent ..)
    (t.slotsFound slots .notInitialized) (f := State.pollNotInitialized)
  have read := absent.foldl (fun v n => (refl v).request n (.sampleRead ⟨none, false, true⟩)) (t.slotsFound slots .flagged)
  unfold State.pollDone
  exact judgePoll (ite (read.setLink _) read)

/-! ## Inputs and timers -/

theorem takeStop (s : State) (told : Option SpotNo) : Keeps s (s.takeStop told) := by
  cases told with
  | some n => exact (refl s).takeCauses n _
  | none => exact (refl s).abortStroke _

theorem completeChangeover (k : Keeps s t) : Keeps s t.completeChangeover := (k.setComp _).examine

theorem expiryBesideFault (k : Keeps s t) : Keeps s t.expiryBesideFault := by
  have chosen : Keeps s { t with choices := t.choices + 1 } := k.trans (of_apart rfl rfl rfl rfl rfl rfl)
  exact ite (ite chosen chosen.completeChangeover) k

/-- A window that closes is counted, and its read opened or the window computed (R50, R52). -/
theorem takeWindow (k : Keeps s t) (n : SpotNo) (phase : Phase) (period : Nat) :
    Keeps s (t.takeWindow n phase period).1 := by
  unfold State.takeWindow
  simp only [State.computeWindow, State.onMeter_eq, State.setMeter_setMeter, State.meter_setMeter_self]
  split
  · rename_i read
    exact k.also (.setMeter ..) (.setMeter _ _ _ fun h => h.windowMissed (by rw [read]; rfl) ..)
  · have opened := k.onMeter n
      (fun m => { m with windowsCounted := count32 m.windowsCounted, windowRead := some ⟨phase, period⟩ })
      fun h => h.windowOpened ⟨phase, period⟩
    split
    · exact opened.also (.missWindow ..) (.missWindow ..)
    · exact opened.request ..

theorem tick (s : State) : Keeps s s.tick := by
  have spot (n : SpotNo) : s.tick.spot n = (s.spot n).tick := by simp [State.spot, State.tick]
  have unbinds : Unbinds s s.tick := ⟨rfl, fun n => .inl (by rw [spot]; rfl)⟩
  refine ⟨unbinds.holds, ?_⟩
  exact ⟨id, id, id, fun _ => id, fun h => h.map _ fun _ => ⟨rfl, rfl⟩, fun n h => h.of_same (by rw [spot]; rfl)⟩

/-! ## Every command -/

/-- What an outcome leads to keeps what is kept. -/
def Leads (s : State) (o : Host.Outcome State Fault Refusal) : Prop := ∀ t, o = .next t → Keeps s t

theorem leads_next (k : Keeps s t) : Leads s (.next t) := by
  rintro _ ⟨⟩
  exact k

theorem leads_if {c : Prop} [Decidable c] (k : Keeps s t) : Leads s (if c then .next t else .next s) := by
  split
  · exact leads_next k
  · exact leads_next (refl s)

theorem leads_unsupported (code tag : Byte) (body : List Byte) (s : State) :
    Leads s (execUnsupportedRequest code tag body s) := by
  unfold execUnsupportedRequest
  split
  · rintro _ ⟨⟩
  · exact leads_next ((refl s).setLine _ fun _ => Nat.zero_le _)

theorem leads_sidingStop (s : State) : Leads s (execSidingStopActive s) := by
  unfold execSidingStopActive
  split
  · exact leads_next (refl s)
  · exact leads_next (((refl s).setSiding _).tellAll takeStop _)

theorem leads_compressorFault (s : State) : Leads s (execCompressorFaultActive s) := by
  unfold execCompressorFaultActive
  split
  · exact leads_next (refl s)
  · exact leads_next ((((refl s).setSiding _).expiryBesideFault.setComp _).tellAll (fun v n => (refl v).enterHeld n _) _)

theorem leads_windowTimer (n : SpotNo) (s : State) : Leads s (execWindowTimerExpiry n s) :=
  leads_if ((((refl s).onSpot n _ (by rfl) (by rfl)).takeWindow ..).takeStationEvent ..)

theorem leads_purgeTimer (n : SpotNo) (s : State) : Leads s (execPurgeTimerExpiry n s) := by
  have expired := (refl s).onSpot n (fun r => { r with purge := .stopped, purgeExpired := true }) rfl rfl
  exact leads_if (ite (expired.endPurge n) expired)

theorem leads_travelTimer (n : SpotNo) (side : ValveSide) (s : State) : Leads s (execTravelTimerExpiry n side s) := by
  have stopped := (refl s).onSpot n (·.setTravel side .stopped) (SpotRecord.car_setTravel ..) (setTravel_keeps ..).2.2
  unfold execTravelTimerExpiry
  split
  · split
    · exact leads_next ((stopped.setProofRecord ..).takeCauses ..)
    · exact leads_next stopped
  · exact leads_next (refl s)

theorem leads_proofStep (s : State) : Leads s (execProofStepTimerExpiry s) := by
  have advanced : Keeps s { s with proof := { s.proof with
      stepTimer := .seconds s.siding.config.proofStep, cursor := nextValve s.proof.cursor } } :=
    of_apart rfl rfl rfl rfl rfl rfl
  exact leads_if (ite (advanced.startStroke ..) advanced)

theorem leads_strokeTimer (s : State) : Leads s (execStrokeTimerExpiry s) := by
  unfold execStrokeTimerExpiry
  split
  · exact leads_next (refl s)
  · exact leads_if (((refl s).setProofRecord ..).endStroke ..)

theorem leads_miss (s : State) : Leads s (execSpotLinkMiss s) := by
  unfold execSpotLinkMiss
  split
  · exact leads_next (refl s)
  · split
    · exact leads_next (refl s)
    · split
      · exact leads_next ((freeLink s).judgePollIf _)
      · exact leads_next ((freeLink s).missed ..)

theorem leads_poll (slots : List (List Byte)) (s : State) : Leads s (execAttentionPollComplete slots s) := by
  unfold execAttentionPollComplete
  split
  · exact leads_next (refl s)
  · split
    · exact leads_next (refl s)
    · split
      · exact leads_next (freeLink s).judgePoll
      · exact leads_next ((freeLink s).pollDone slots)

theorem leads_exec (c : Instr) (s : State) : Leads s (exec c s) := by
  cases c with
  | powerOnReset pins => exact leads_next (powerOn pins s)
  | lineByteReceived b => exact leads_next ((refl s).setLine _ fun fits => LineUnit.length_take fits b)
  | lineFramingError => exact leads_next ((refl s).setLine _ LineUnit.length_framingError)
  | gapTimerExpiry => exact leads_next ((refl s).setLine _ LineUnit.length_gapExpiry)
  | replyLastByteSent => exact leads_next ((refl s).setLine _ LineUnit.length_replySent)
  | unsupportedRequest code tag body => exact leads_unsupported code tag body s
  | carAdd tag body => exact leads_next (serve (addCar body s))
  | carWithdraw tag body => exact leads_next (serve (withdrawCar body s))
  | carMove tag body => exact leads_next (serve (moveCar body s))
  | carList tag body => exact leads_next (serve_of_same rfl)
  | spotAssign tag body => exact leads_next (serve (forSpot fun n => assign body n s))
  | spotRelease tag body => exact leads_next (serve (forSpot fun n => release n s))
  | spotStart tag body => exact leads_next (serve (forSpot fun n => start body n s))
  | spotHold tag body => exact leads_next (serve (forSpot fun n => hold n s))
  | spotResume tag body => exact leads_next (serve (forSpot fun n => resume n s))
  | spotStop tag body => exact leads_next (serve (forSpot fun n => stop n s))
  | spotReset tag body => exact leads_next (serve (forSpot fun n => resetTrip n s))
  | spotOverride tag body => exact leads_next (serve (forSpot fun n => overrideBypass body n s))
  | spotConfig tag body => exact leads_next (serve (forSpot fun n => configure body n s))
  | spotsRead tag body => exact leads_next (serve_of_same (SharesFollowStates.state_readSpots body))
  | gradeLoad tag body => exact leads_next (serve (loadGrade body s))
  | gradeRead tag body => exact leads_next (serve_of_same (SharesFollowStates.state_readGrade body))
  | sidingConfig tag body => exact leads_next (serve (configureSiding body s))
  | sidingMode tag body => exact leads_next (serve (setMode body s))
  | proofRequest tag body => exact leads_next (serve (requestProof body s))
  | proofRead tag body => exact leads_next (serve_of_same rfl)
  | ticketRead tag body => exact leads_next (serve_of_same SharesFollowStates.state_readTicket)
  | ticketRelease tag body => exact leads_next (serve (releaseTicket body s))
  | status tag body => exact leads_next (serve_of_same rfl)
  | restart tag body => exact leads_next (serve (takeRestart s))
  | sidingStopActive => exact leads_sidingStop s
  | sidingStopClear => exact leads_next ((refl s).setSiding _)
  | compressorFaultActive => exact leads_compressorFault s
  | compressorFaultClear => exact leads_if ((refl s).setSiding _).examine
  | compressorRunChange level => exact leads_next ((refl s).setSiding _)
  | attentionLineActive level => exact leads_next (((refl s).setLink _).judgePollIf _)
  | settleTimerExpiry n => exact leads_if ((refl s).onSpot n _ (by rfl) (by rfl))
  | windowTimerExpiry n => exact leads_windowTimer n s
  | transferLimitExpiry n => exact leads_if (((refl s).onSpot n _ (by rfl) (by rfl)).enterPurge n _)
  | stripTimerExpiry n => exact leads_if (((refl s).onSpot n _ (by rfl) (by rfl)).enterPurge n _)
  | purgeTimerExpiry n => exact leads_purgeTimer n s
  | travelTimerExpiry n side => exact leads_travelTimer n side s
  | spacingTimerExpiry => exact leads_if ((refl s).setComp _).examine
  | changeoverTimerExpiry => exact leads_if (refl s).completeChangeover
  | ageTimerExpiry => exact leads_if ((refl s).setComp _)
  | hourTimerExpiry => exact leads_if (of_apart rfl rfl rfl rfl rfl rfl)
  | proofStepTimerExpiry => exact leads_proofStep s
  | strokeTimerExpiry => exact leads_strokeTimer s
  | holdOffExpiry n kind =>
    refine leads_if ((refl s).setLink _ fun h => Link.distinct_send _ (h.map _ fun e => ?_))
    split <;> exact ⟨rfl, rfl⟩
  | pollHoldOffExpiry => exact leads_if ((refl s).setLink _).judgePoll
  | recoveryTimerExpiry n => exact leads_if (((refl s).onStation n _).queueInit n)
  | transactionSend => exact leads_next ((refl s).setLink _ (Link.distinct_send _))
  | spotLinkMiss => exact leads_miss s
  | initializeReply frame => exact leads_next (takeReply s _ frame initReplied)
  | closeReply frame => exact leads_next (takeReply s _ frame closeReplied)
  | valveOpenReply frame => exact leads_next (takeReply s _ frame openReplied)
  | sampleReadReply frame => exact leads_next (takeReply s _ frame sampleReplied)
  | countAckReply frame => exact leads_next (takeReply s _ frame ackReplied)
  | strokeReply frame => exact leads_next (takeReply s _ frame strokeReplied)
  | clearReply frame => exact leads_next (takeReply s _ frame clearReplied)
  | attentionPollComplete slots => exact leads_poll slots s

/-- A step takes the front command, an event owed, or 1 ms. -/
theorem leads_step (s : State) : Leads s (step s) := by
  unfold step
  split
  · rename_i c rest _
    have taken : Keeps s { s with pending := rest } := of_apart rfl rfl rfl rfl rfl rfl
    exact fun t stepped => taken.trans (leads_exec c _ t stepped)
  · unfold State.idle
    split
    · exact leads_next (tick s)
    · exact leads_exec _ s
    · have chosen : Keeps s { s with choices := s.choices + 1 } := of_apart rfl rfl rfl rfl rfl rfl
      exact fun t stepped => chosen.trans (leads_exec _ _ t stepped)

end Keeps

/-- Settles O12: records are bound by SPOT_ASSIGN and added by CAR_ADD alone, each with an id that none held has then. -/
theorem carsStayValidAndOnce : Obligations.CarsStayValidAndOnce :=
  fun s t hold stepped => (Keeps.leads_step s t stepped).cars hold

theorem capacitiesHold_iff (s : State) :
    CapacitiesHold s ↔ s.manifest.length ≤ 24 ∧ s.tickets.Bounded ∧ s.line.buffer.length ≤ 1030 :=
  ⟨fun h => ⟨h.manifest, ⟨h.queue, h.waitOnlyWhenFull, h.serialLow, h.serialHigh⟩, h.buffer⟩,
    fun ⟨manifest, u, buffer⟩ => ⟨manifest, u.queue, u.waitOnlyWhenFull, u.serialLow, u.serialHigh, buffer⟩⟩

/-- Settles O58: each of the four invariants is a bound that every step keeps. -/
theorem capacitiesRangesAndPairsKept : Obligations.CapacitiesRangesAndPairsKept := by
  intro s t stepped
  have kept := (Keeps.leads_step s t stepped).bounds
  rw [capacitiesHold_iff, capacitiesHold_iff]
  exact ⟨fun ⟨manifest, tickets, buffer⟩ => ⟨kept.manifest manifest, kept.tickets tickets, kept.buffer buffer⟩,
    fun h n => kept.meters n (h n), kept.entries, fun h n => kept.trips n (h n)⟩

end Sys2Proof.Machine
end

section
/-! SUPPORT. The requests of the manifest unit (chapter 2): CAR_ADD, CAR_WITHDRAW and CAR_MOVE make their checks in order, and
then the records stand as R37 to R39 have them. -/

namespace Sys2Proof.Machine

/-! ## Where a car id is held (R36) -/

section
variable {s : State} {before after m : List CarRecord} {c : CarRecord} {n : SpotNo} {id : List Byte}

theorem carPosition_none (none : ∀ d ∈ m, d.carId ≠ id) : carPosition m id = Option.none :=
  List.findIdx?_eq_none_iff.mpr fun d hd => by simpa using none d hd

/-- The first record with an id is found at its place. -/
theorem carPosition_first (here : c.carId = id) (earlier : ∀ d ∈ before, d.carId ≠ id) :
    carPosition (before ++ c :: after) id = some before.length := by
  have earlier' : before.findIdx? (fun d => d.carId == id) = none := carPosition_none earlier
  simp [carPosition, List.findIdx?_append, List.findIdx?_cons, earlier', here]

/-- The first record with the id, with its place. -/
theorem found_first (here : c.carId = id) (earlier : ∀ d ∈ before, d.carId ≠ id) :
    ((carPosition (before ++ c :: after) id).bind fun p => ((before ++ c :: after)[p]?).map fun d => (p, d)) =
      some (before.length, c) :=
  findIdx?_first (by simpa using here) fun d hd => by simpa using earlier d hd

theorem any_carId_iff {car : Option CarRecord} :
    car.any (fun c => c.carId == id) = false ↔ ∀ d, car = some d → d.carId ≠ id := by
  cases car <;> simp

theorem spotHolding_none (none : ∀ n d, (s.spot n).car = some d → d.carId ≠ id) : s.spotHolding id = Option.none :=
  List.find?_eq_none.mpr fun n _ => Bool.eq_false_iff.mp (any_carId_iff.mpr (none n))

theorem allSpots_eq_append : ∀ n : SpotNo, allSpots = allSpots.filter (· < n) ++ n :: allSpots.filter (n < ·) := by
  decide

/-- The lowest spot whose car has the id is found. -/
theorem spotHolding_first (there : (s.spot n).car = some c) (here : c.carId = id)
    (lower : ∀ k d, k < n → (s.spot k).car = some d → d.carId ≠ id) : s.spotHolding id = some n := by
  refine List.find?_eq_some_iff_append.mpr ⟨by simp [there, here], _, _, allSpots_eq_append n, fun k hk => ?_⟩
  have below : k < n := by simpa using (List.mem_filter.mp hk).2
  rw [any_carId_iff.mpr fun d => lower k d below]
  rfl

end

/-- A list with an element put in at a position it has room for. -/
theorem insertIdx_eq_append {α : Type} (l : List α) (i : Nat) (a : α) (inside : i ≤ l.length) :
    l.insertIdx i a = l.take i ++ a :: l.drop i := by
  induction l generalizing i with
  | nil => cases i <;> simp_all
  | cons b l ih =>
    cases i with
    | zero => rfl
    | succ i => simp [ih i (by simpa using inside)]

/-! ## The verdicts -/

namespace State

variable (s : State) {body : List Byte} {before after : List CarRecord} {c : CarRecord} {id : List Byte} {p : Nat} {n : SpotNo}

theorem addCar_range (read : readCarRecord body = none) : s.addCar body = s.refuse .range := by
  unfold addCar
  rw [read]

theorem addCar_held (read : readCarRecord body = some c) (place : carPosition s.manifest c.carId = some p) :
    s.addCar body = s.refuse .duplicate [0, byte1 p] := by
  unfold addCar
  rw [read]
  dsimp only
  rw [place]

theorem addCar_atSpot (read : readCarRecord body = some c) (place : carPosition s.manifest c.carId = none)
    (holds : s.spotHolding c.carId = some n) : s.addCar body = s.refuse .duplicate [1, byte1 n.val] := by
  unfold addCar
  rw [read]
  dsimp only
  rw [place, holds]

/-- A record with an id that none held has joins at the tail where there is room (R37). -/
theorem addCar_new (read : readCarRecord body = some c) (place : carPosition s.manifest c.carId = none)
    (holds : s.spotHolding c.carId = none) :
    s.addCar body = if 24 ≤ s.manifest.length then s.refuse .full
      else ⟨.ok, [byte1 s.manifest.length, byte1 (s.manifest.length + 1)], s.setManifest (s.manifest ++ [c])⟩ := by
  unfold addCar
  rw [read]
  dsimp only
  rw [place, holds]
  rfl

theorem withdrawCar_range (read : readCarId body 0 = none) : s.withdrawCar body = s.refuse .range := by
  unfold withdrawCar
  rw [read]

theorem moveCar_range (read : readCarId body 0 = none) : s.moveCar body = s.refuse .range := by
  unfold moveCar
  rw [read]

/-- The record leaves, and those behind it move up (R38). -/
theorem withdrawCar_found (read : readCarId body 0 = some id) (manifest : s.manifest = before ++ c :: after)
    (here : c.carId = id) (earlier : ∀ d ∈ before, d.carId ≠ id) :
    s.withdrawCar body = ⟨.ok, c.bytes ++ [byte1 before.length, byte1 (before.length + after.length)],
      s.setManifest (before ++ after)⟩ := by
  unfold withdrawCar
  rw [read, manifest]
  dsimp only
  rw [found_first here earlier]
  simp [List.eraseIdx_append_of_length_le]

/-- The record stands at the target where the manifest has that position (R39). -/
theorem moveCar_found (read : readCarId body 0 = some id) (manifest : s.manifest = before ++ c :: after)
    (here : c.carId = id) (earlier : ∀ d ∈ before, d.carId ≠ id) :
    s.moveCar body = if num1 body 13 < s.manifest.length then
        ⟨.ok, [byte1 before.length, byteAt body 13],
          s.setManifest ((before ++ after).take (num1 body 13) ++ c :: (before ++ after).drop (num1 body 13))⟩
      else s.refuse .range := by
  have left : (before ++ c :: after).eraseIdx before.length = before ++ after := by
    simp [List.eraseIdx_append_of_length_le]
  unfold moveCar
  rw [read]
  dsimp only
  rw [manifest, found_first here earlier]
  dsimp only
  rw [left]
  refine ite_congr rfl (fun inside => ?_) fun _ => rfl
  rw [insertIdx_eq_append]
  simp only [List.length_append, List.length_cons] at inside ⊢
  omega

/-- An id that no manifest record has is BUSY where a spot's car has it (R38, R39). -/
theorem withdrawCar_busy (read : readCarId body 0 = some id) (absent : ∀ d ∈ s.manifest, d.carId ≠ id)
    (holds : s.spotHolding id = some n) : s.withdrawCar body = s.refuse .busy [byte1 n.val] := by
  unfold withdrawCar
  simp only [read, carPosition_none absent, Option.bind_none, holds]

theorem moveCar_busy (read : readCarId body 0 = some id) (absent : ∀ d ∈ s.manifest, d.carId ≠ id)
    (holds : s.spotHolding id = some n) : s.moveCar body = s.refuse .busy [byte1 n.val] := by
  unfold moveCar
  simp only [read, carPosition_none absent, Option.bind_none, holds]

/-- An id that is held nowhere is UNKNOWN (R38, R39). -/
theorem withdrawCar_unknown (read : readCarId body 0 = some id) (absent : ∀ d ∈ s.manifest, d.carId ≠ id)
    (nowhere : s.spotHolding id = none) : s.withdrawCar body = s.refuse .unknown := by
  unfold withdrawCar
  simp only [read, carPosition_none absent, Option.bind_none, nowhere]

theorem moveCar_unknown (read : readCarId body 0 = some id) (absent : ∀ d ∈ s.manifest, d.carId ≠ id)
    (nowhere : s.spotHolding id = none) : s.moveCar body = s.refuse .unknown := by
  unfold moveCar
  simp only [read, carPosition_none absent, Option.bind_none, nowhere]

end State

/-- Settles O10: the four answers of the manifest unit, by the places where the id is held. -/
theorem carAddChecksInOrder : Obligations.CarAddChecksInOrder := by
  unfold Obligations.CarAddChecksInOrder
  intro tag body s len
  refine ⟨fun unread => State.exec_owned rfl len (s.addCar_range unread), fun c read => ⟨?_, fun absent => ⟨?_, ?_⟩⟩⟩
  · intro before d after manifest same earlier
    exact State.exec_owned rfl len (s.addCar_held read (manifest ▸ carPosition_first same earlier))
  · intro n d there same lower
    exact State.exec_owned rfl len
      (s.addCar_atSpot read (carPosition_none absent) (spotHolding_first there same lower))
  · intro nowhere
    have verdict := s.addCar_new read (carPosition_none absent) (spotHolding_none nowhere)
    exact ⟨fun full => State.exec_owned rfl len (verdict.trans (if_pos full)),
      fun room => State.exec_owned rfl len (verdict.trans (if_neg (Nat.not_le.mpr room)))⟩

/-- Settles O11: a record in the manifest is found at its place; else the spots are asked for the id. -/
theorem carWithdrawAndMove : Obligations.CarWithdrawAndMove := by
  unfold Obligations.CarWithdrawAndMove
  intro tag body s
  refine ⟨fun len unread => State.exec_owned rfl len (s.withdrawCar_range unread),
    fun len unread => State.exec_owned rfl len (s.moveCar_range unread), fun id read => ⟨?_, fun absent => ⟨?_, ?_⟩⟩⟩
  · intro before c after manifest here earlier
    have moved := s.moveCar_found read manifest here earlier
    refine ⟨fun len => State.exec_owned rfl len (s.withdrawCar_found read manifest here earlier), fun len => ⟨?_, ?_⟩⟩
    · exact fun far => State.exec_owned rfl len (moved.trans (if_neg (Nat.not_lt.mpr far)))
    · exact fun inside => State.exec_owned rfl len (moved.trans (if_pos inside))
  · intro n d there here lower
    have holds := spotHolding_first there here lower
    exact ⟨fun len => State.exec_owned rfl len (s.withdrawCar_busy read absent holds),
      fun len => State.exec_owned rfl len (s.moveCar_busy read absent holds)⟩
  · intro elsewhere
    have nowhere := spotHolding_none elsewhere
    exact ⟨fun len => State.exec_owned rfl len (s.withdrawCar_unknown read absent nowhere),
      fun len => State.exec_owned rfl len (s.moveCar_unknown read absent nowhere)⟩

end Sys2Proof.Machine
end

section
/-! SUPPORT. The requests that only read (R40, R88, R143, R177, R192, R193): the model's own layouts are those of the spec's
tables, field by field, and the results carry them. -/

namespace Sys2Proof.Machine

/-! ## Numbers, bits and characters (R191) -/

theorem leBytes_eq (width v : Nat) : leBytes width v = Layout.num width v := by
  induction width generalizing v with
  | zero => rfl
  | succ width ih =>
    rw [leBytes, ih, Layout.num, Layout.num, List.range_succ_eq_map, List.map_cons, List.map_map, pow_zero, Nat.div_one]
    refine congrArg _ (List.map_congr_left fun i _ => ?_)
    rw [Nat.div_div_eq_div_mul, Function.comp, pow_succ']

theorem leBytesInt_eq (width : Nat) (v : Int) : leBytesInt width v = Layout.signed width v := leBytes_eq ..

theorem byte1_eq (v : Nat) : [byte1 v] = Layout.num 1 v := leBytes_eq 1 v

theorem bits_zipIdx (l : List Bool) (k : Nat) : Layout.bits (l.zipIdx k) = 2 ^ k * ofBits l := by
  induction l generalizing k with
  | nil => rfl
  | cons b l ih =>
    have tail : Layout.bits ((b :: l).zipIdx k) = (if b then 2 ^ k else 0) + Layout.bits (l.zipIdx (k + 1)) := rfl
    rw [tail, ih, ofBits, pow_succ, Nat.mul_add, bitOf]
    cases b <;> simp [Nat.mul_assoc]

/-- Bits in order are bits at the places 0, 1, 2, … -/
theorem ofBits_eq (l : List Bool) : ofBits l = Layout.bits l.zipIdx := by
  rw [bits_zipIdx, pow_zero, Nat.one_mul]

theorem charField_eq (width : Nat) (l : List Byte) : charField width l = Layout.chars width l := by
  rw [Layout.chars, ← byte1_eq]
  rfl

theorem length_chars {width : Nat} {l : List Byte} (fits : l.length ≤ width) : (Layout.chars width l).length = width + 1 := by
  simp only [Layout.chars, List.length_append, length_num, List.length_replicate]
  omega

/-! ## Sets (R191) -/

theorem spotSetByte_eq_spots (set : List SpotNo) : [spotSetByte set] = Layout.spots set := by
  rw [spotSetByte_eq, spots_eq]

theorem causeSetBytes_eq (set : List TripCause) : causeSetBytes set = Layout.causes set := by
  have contains : set.contains = fun x => decide (x ∈ set) := funext fun x => List.contains_eq_mem x set
  rw [causeSetBytes, Layout.causes, leBytes_eq, ofBits_eq, contains]
  rfl

theorem permissiveSetBytes_eq (set : List Permissive) : permissiveSetBytes set = Layout.permissives set := by
  have contains : set.contains = fun x => decide (x ∈ set) := funext fun x => List.contains_eq_mem x set
  rw [permissiveSetBytes, Layout.permissives, leBytes_eq, ofBits_eq, contains]
  rfl

/-- The bypass set has positions 5 and 7 alone (R10). -/
theorem bypassBytes_eq (b : Bypass) : b.bytes = Layout.num 2 (Layout.bits [(b.proofCurrent, 5), (b.carPressure, 7)]) := by
  obtain ⟨proof, pressure⟩ := b
  revert proof pressure
  decide

/-! ## Codes (R202) -/

namespace Layout

@[simp] theorem num_one (v : Nat) : num 1 v = [byte1 v] := (byte1_eq v).symm

@[simp] theorem code_states (x : SpotState) : code states x = [byte1 x.code] := by cases x <;> rfl

@[simp] theorem code_statuses (x : StationStatus) : code statuses x = [byte1 x.code] := by cases x <;> rfl

@[simp] theorem code_endReasons (x : Option EndReason) : code endReasons x = [byte1 (endReasonCode x)] := by
  rcases x with _ | x
  · rfl
  · cases x <;> rfl

@[simp] theorem code_resumePhase (x : Option ResumePhase) :
    code [none, some .liquid, some .strip] x = [byte1 (resumePhaseCode x)] := by
  rcases x with _ | x
  · rfl
  · cases x <;> rfl

@[simp] theorem code_holdReason (x : Option HoldReason) :
    code [none, some .operator, some .sidingShut, some .compressor] x = [byte1 (holdReasonCode x)] := by
  rcases x with _ | x
  · rfl
  · cases x <;> rfl

@[simp] theorem idxOf_commands (x : ValveCommand) : commands.idxOf x = x.code := by cases x <;> rfl

@[simp] theorem idxOf_positions (x : ValvePosition) : positions.idxOf x = x.code := by cases x <;> rfl

@[simp] theorem code_duties (x : Duty) : code duties x = [byte1 x.code] := by cases x <;> rfl

@[simp] theorem code_sidingMode (x : SidingMode) : code [.run, .quiet, .shut] x = [byte1 x.code] := by cases x <;> rfl

@[simp] theorem code_compressorMode (x : CompressorMode) : code [.idle, .push, .pull, .changeover] x = [byte1 x.code] := by
  cases x <;> rfl

@[simp] theorem code_lineRate (x : LineRate) :
    code [.baud9600, .baud19200, .baud38400, .baud115200] x = [byte1 (lineRateCode x)] := by
  cases x <;> rfl

@[simp] theorem code_roundingMode (x : RoundingMode) : code [.nearestEven, .towardZero, .up, .down] x = [byte1 x.code] := by
  cases x <;> rfl

@[simp] theorem code_proofState (x : ProofState) : code [.current, .due, .failed] x = [byte1 x.code] := by cases x <;> rfl

@[simp] theorem code_strokeResult (x : Option StrokeResult) :
    code [none, some .pass, some .slow, some .fail, some .aborted] x = [byte1 (strokeResultCode x)] := by
  rcases x with _ | x
  · rfl
  · cases x <;> rfl

@[simp] theorem code_faultSource (x : Option FaultSource) :
    code [none, some .stroke, some .travel] x = [byte1 (faultSourceCode x)] := by
  rcases x with _ | x
  · rfl
  · cases x <;> rfl

@[simp] theorem code_strokeOrigin (x : StrokeOrigin) : code [.cursor, .request] x = [byte1 x.code] := by cases x <;> rfl

end Layout

/-- The bytes that stand for a value that is not there (R193, R200). -/
theorem byte1_absent : byte1 0 = 0#8 ∧ byte1 255 = 0xFF#8 := ⟨rfl, rfl⟩

/-! ## Records (R199 to R201, R203) -/

theorem carBytes_eq (c : CarRecord) : c.bytes = Layout.car c := by
  simp [CarRecord.bytes, Layout.car, charField_eq, leBytes_eq, ofBits_eq, ← spotSetByte_eq_spots]

/-- With no car the id field is 0 throughout and the grade 0xFF; with no trip record its three bytes are 0 (R200). -/
theorem snapshot_eq (s : State) (n : SpotNo) : s.snapshot n = Layout.snapshot s n := by
  have noChars : Layout.chars 12 [] = List.replicate 13 0 := rfl
  have noCauses : Layout.causes [] = [0, 0] := rfl
  unfold State.snapshot Layout.snapshot State.permissives Meter.runningNet
  simp only [charField_eq, leBytes_eq, leBytesInt_eq, bypassBytes_eq, causeSetBytes_eq, permissiveSetBytes_eq]
  cases (s.spot n).car <;> cases (s.spot n).trip <;> simp [noChars, noCauses, ofBits_eq, byte1_absent]

/-- The declared mass is nine bytes, all 0 where there is none (R201). -/
theorem ticketBytes_eq (t : Ticket) : t.bytes = Layout.ticket t := by
  have noDeclared : leBytes 8 0 = List.replicate 8 0 := rfl
  unfold Ticket.bytes Layout.ticket TicketFlags.bytes
  simp only [noDeclared, charField_eq, leBytes_eq, leBytesInt_eq, ofBits_eq]
  cases t.declared <;> simp [byte1]

theorem gradeBytes_eq (g : GradeNo) (r : Grade) : r.bytes g = Layout.grade g r := by
  simp [Grade.bytes, Layout.grade, charField_eq, leBytes_eq, leBytesInt_eq]

theorem ticketReadResult_eq (t : Ticket) (u : TicketUnit) : ticketReadResult t u = Layout.ticket t
    ++ Layout.num 1 u.queue.length ++ Layout.num 1 u.wait.length
    ++ u.wait.flatMap fun w => Layout.num 1 w.spot.val ++ Layout.num 4 w.ticket.number := by
  simp [ticketReadResult, ticketBytes_eq, leBytes_eq]

/-! ## STATUS and PROOF_READ (R193, R203) -/

/-- A list read place by place: its entries, and what stands for none beyond them. -/
theorem flatMap_range_getElem? {α β : Type} (f : Option α → List β) (places : Nat) (q : List α) :
    ((List.range places).flatMap fun i => f q[i]?) =
      ((q.take places).flatMap fun e => f (some e)) ++ (List.replicate (places - q.length) (f none)).flatten := by
  induction places generalizing q with
  | zero => simp
  | succ places ih =>
    rw [List.range_succ_eq_map, List.flatMap_cons, List.flatMap_map]
    cases q with
    | nil => simpa [List.replicate_succ] using ih []
    | cons e q => simpa using ih q

/-- The two bytes of a place in the queue (R193). -/
def queuePlace : Option QueueEntry → List Byte
  | some e => [byte1 e.spot.val, byte1 e.kind.code]
  | none => [0xFF#8, 0xFF#8]

theorem queueField_eq (q : List QueueEntry) : queueField q = (List.range 6).flatMap fun i => queuePlace q[i]? := by
  have unused (k : Nat) : (List.replicate k (queuePlace none)).flatten = List.replicate (2 * k) 0xFF#8 := by
    induction k with
    | zero => rfl
    | succ k ih => rw [List.replicate_succ, List.flatten_cons, ih]; rfl
  rw [flatMap_range_getElem?, unused]
  rfl

theorem timerField_eq (t : Timer) : timerField t = Layout.seconds 0xFFFF t := by
  cases t <;> exact leBytes_eq ..

theorem wholeSeconds_eq (t : Timer) : Layout.num 2 (t.wholeSeconds.getD 0) = Layout.seconds 0 t := by
  cases t <;> rfl

theorem runRequest_eq (c : Compressor) : c.runRequest = decide (c.mode = .push ∨ c.mode = .pull) := by
  unfold Compressor.runRequest
  cases c.mode <;> rfl

theorem reversing_eq (c : Compressor) : (c.reversing == .pull) = decide (c.mode = .pull ∨ (c.mode = .idle ∧ c.position = .pull)
    ∨ (c.mode = .changeover ∧ c.target.getD c.position = .pull)) := by
  rw [Bool.eq_iff_iff, beq_iff_eq, decide_eq_true_iff]
  unfold Compressor.reversing
  cases c.mode <;> simp

/-- A target or a pull holder that is not there is 0xFF (R193). -/
theorem statusResult_eq (s : State) : s.statusResult = Layout.status s := by
  unfold State.statusResult Layout.status SidingConfig.bytes
  simp only [leBytes_eq, timerField_eq, queueField_eq, ofBits_eq, runRequest_eq, reversing_eq, ← spotSetByte_eq_spots]
  cases s.comp.target <;> cases s.comp.pullHolder <;> simp [byte1_absent, List.map_eq_flatMap] <;> rfl

/-- With no travel time its three bytes are 0, and with no stroke the last seven (R203). -/
theorem proofResult_eq (s : State) : s.proofResult = Layout.proofs s := by
  have zeros (k : Nat) : Layout.num k 0 = List.replicate k 0 := by simp [Layout.num, List.map_const']
  unfold State.proofResult Layout.proofs
  simp only [List.append_assoc]
  refine congrArg₂ (· ++ ·) (congrArg (List.flatMap · allValves) (funext fun v => ?_)) ?_
  · unfold ProofRecord.bytes
    cases (s.proofRecord v).lastTravel <;> simp [leBytes_eq, bitOf, zeros, byte1_absent]
  · rcases s.proof.stroke with _ | ⟨valve, origin, limit, _ | ms⟩ <;>
      simp [leBytes_eq, wholeSeconds_eq, zeros, Timer.remaining, byte1]

/-! ## Lengths (R193, R200, R203) -/

theorem length_leBytes (width v : Nat) : (leBytes width v).length = width := by rw [leBytes_eq, length_num]

theorem length_queueField (q : List QueueEntry) : (queueField q).length = 12 := by
  simp only [queueField, List.length_append, List.length_flatMap, List.length_cons, List.length_nil, List.map_const',
    List.sum_replicate, List.length_take, List.length_replicate, smul_eq_mul]
  omega

/-- With a valid car, or none, the snapshot record has 46 bytes. -/
theorem length_snapshot {s : State} (hold : CarsHold s) (n : SpotNo) : (Layout.snapshot s n).length = 46 := by
  have id : (((s.spot n).car.map CarRecord.carId).getD []).length ≤ 12 := by
    cases car : (s.spot n).car with
    | none => exact Nat.zero_le _
    | some c => exact (hold.validAtSpots n c car).idLength.2
  rw [← snapshot_eq]
  unfold State.snapshot Bypass.bytes causeSetBytes permissiveSetBytes leBytesInt
  simp [charField_eq, length_chars id, length_leBytes]

theorem length_status (s : State) : (Layout.status s).length = 54 := by
  rw [← statusResult_eq]
  unfold State.statusResult SidingConfig.bytes timerField
  simp [length_leBytes, length_queueField, allSpots]

theorem length_proofs (s : State) : (Layout.proofs s).length = 108 := by
  rw [← proofResult_eq]
  unfold State.proofResult ProofRecord.bytes
  cases s.proof.stroke <;> simp [length_leBytes, allValves]

/-! ## The requests -/

namespace State

variable (s : State) {g : GradeNo}

theorem listCars_eq : s.listCars =
    ⟨.ok, Layout.num 1 s.manifest.length ++ s.manifest.flatMap Layout.car, s⟩ := by
  rw [listCars, show CarRecord.bytes = Layout.car from funext carBytes_eq, Layout.num_one]
  rfl

theorem readSpots_range {first last : Byte} (out : last.toNat < first.toNat ∨ 5 < last.toNat) :
    s.readSpots [first, last] = s.refuse .range := by
  simp [readSpots, num1, byteAt, out]

theorem readSpots_eq {first last : Byte} (low : first.toNat ≤ last.toNat) (high : last.toNat ≤ 5) :
    s.readSpots [first, last] = ⟨.ok, Layout.num 1 (last.toNat - first.toNat + 1)
      ++ (allSpots.filter fun n => first.toNat ≤ n.val ∧ n.val ≤ last.toNat).flatMap (Layout.snapshot s), s⟩ := by
  have within : ¬(last.toNat < first.toNat ∨ 5 < last.toNat) := by omega
  have layout : s.snapshot = Layout.snapshot s := funext (snapshot_eq s)
  simp [readSpots, num1, byteAt, within, layout]

theorem readGrade_range {b : Byte} (high : 3 < b.toNat) : s.readGrade [b] = s.refuse .range := by
  have unnamed : gradeOf b.toNat = none := dif_neg (by omega)
  unfold readGrade
  rw [show gradeOf (num1 [b] 0) = none from unnamed]

theorem gradeOf_number (g : GradeNo) : gradeOf (num1 [BitVec.ofNat 8 g.val] 0) = some g := by
  have := g.isLt
  refine (gradeOf_iff _ g).mpr ?_
  show (BitVec.ofNat 8 g.val).toNat = g.val
  rw [BitVec.toNat_ofNat]
  omega

theorem readGrade_unknown (unloaded : s.grade g = none) : s.readGrade [BitVec.ofNat 8 g.val] = s.refuse .unknown := by
  unfold readGrade
  simp only [gradeOf_number, unloaded]

theorem readGrade_loaded {r : Grade} (loaded : s.grade g = some r) :
    s.readGrade [BitVec.ofNat 8 g.val] = ⟨.ok, r.bytes g ++ [spotSetByte (s.spotsOfGrade g)], s⟩ := by
  unfold readGrade
  simp only [gradeOf_number, loaded]

theorem readTicket_empty (empty : s.tickets.queue = []) : s.readTicket = s.refuse .empty := by
  unfold readTicket
  simp only [empty]

theorem readTicket_oldest {t : Ticket} {rest : List Ticket} (queue : s.tickets.queue = t :: rest) :
    s.readTicket = ⟨.ok, ticketReadResult t s.tickets, s⟩ := by
  unfold readTicket
  simp only [queue]

theorem spotsOfGrade_eq : s.spotsOfGrade g = allSpots.filter fun n => (s.spot n).car.map CarRecord.grade = some g := by
  refine List.filter_congr fun n _ => ?_
  rw [Bool.eq_iff_iff]
  cases (s.spot n).car <;> simp

end State

/-- Settles O13: each result is the model's own layout, which is the one of the tables. -/
theorem readingChangesNothing : Obligations.ReadingChangesNothing := by
  unfold Obligations.ReadingChangesNothing
  refine ⟨fun tag s => ⟨State.exec_owned rfl rfl s.listCars_eq, fun first last => ⟨fun out => ?_, fun low high => ?_⟩,
    length_snapshot, fun b high => ?_, fun g => ⟨fun unloaded => ?_, fun r loaded => ?_⟩, ?_, length_proofs s,
    fun empty => ?_, fun t rest queue => ?_, ?_, length_status s⟩, leBytes_eq, carBytes_eq, spotSetByte_eq_spots,
    causeSetBytes_eq, permissiveSetBytes_eq, charField_eq 8,
    fun x => (Layout.code_sidingMode x).symm, fun x => (Layout.code_statuses x).symm⟩
  · exact State.exec_owned rfl rfl (s.readSpots_range out)
  · exact State.exec_owned rfl rfl (s.readSpots_eq low high)
  · exact State.exec_owned rfl rfl (s.readGrade_range high)
  · exact State.exec_owned rfl rfl (s.readGrade_unknown unloaded)
  · rw [← gradeBytes_eq, ← spotSetByte_eq_spots, ← s.spotsOfGrade_eq]
    exact State.exec_owned rfl rfl (s.readGrade_loaded loaded)
  · exact State.exec_owned rfl rfl (by rw [proofResult_eq])
  · exact State.exec_owned rfl rfl (s.readTicket_empty empty)
  · rw [← ticketReadResult_eq]
    exact State.exec_owned rfl rfl (s.readTicket_oldest queue)
  · exact State.exec_owned rfl rfl (by rw [statusResult_eq])

end Sys2Proof.Machine
end

section
/-! SUPPORT. The metering arithmetic (chapter 3): readings brought into range, the whole square root, each stage of a
window as one change of the record, and net mass rounded to kilograms. -/

namespace Sys2Proof.Machine

/-! ## Readings brought into range (R56) -/

theorem clampT_eq (t : Int) : clampT t = ⟨max (-5000) (min 6000 t), t < -5000 || 6000 < t⟩ := by
  unfold clampT
  split
  · simp; omega
  · split <;> simp <;> omega

theorem clampDp_eq (dp : Nat) : clampDp dp = ⟨min 25000 dp, 25000 < dp⟩ := by
  unfold clampDp
  split <;> simp <;> omega

theorem clampPv_eq (pv : Nat) : clampPv pv = ⟨max 100 (min 2500 pv), pv < 100 || 2500 < pv⟩ := by
  unfold clampPv
  split
  · simp; omega
  · split <;> simp <;> omega

/-- Settles O55: a reading present is its clamp, one absent is the held value, and stages 1 to 3 are one change. -/
theorem readingsAreHeldAndLiquidIsBooked : Obligations.ReadingsAreHeldAndLiquidIsBooked := by
  unfold Obligations.ReadingsAreHeldAndLiquidIsBooked
  refine ⟨fun m x => ⟨fun t valid => ?_, fun absent => ?_, fun d valid => ?_, fun absent => ?_, fun p valid => ?_,
    fun absent => ?_, rfl, rfl, rfl⟩, fun m c g p => rfl⟩
  · rw [Meter.InRange.heldT_renew, valid, ← clampT_eq]; rfl
  · rw [Meter.InRange.heldT_renew, absent]; rfl
  · rw [Meter.InRange.heldDp_renew, valid, ← clampDp_eq]; rfl
  · rw [Meter.InRange.heldDp_renew, absent]; rfl
  · rw [Meter.InRange.heldPv_renew, valid, ← clampPv_eq]; rfl
  · rw [Meter.InRange.heldPv_renew, absent]; rfl

/-! ## The whole square root (R62, step 3) -/

/-- Each bit keeps the root between the part already found and the span of the bits still to come. -/
theorem isqrtBits_eq_sqrt (bits : Nat) {r n : Nat} (low : r * r ≤ n) (high : n < (r + 2 ^ bits) * (r + 2 ^ bits)) :
    isqrtBits bits r n = n.sqrt := by
  induction bits generalizing r with
  | zero => exact Nat.eq_sqrt.mpr ⟨low, high⟩
  | succ bits ih =>
    rw [isqrtBits]
    split
    · next fits => exact ih fits (by rwa [Nat.add_assoc, ← Nat.two_mul, ← pow_succ'])
    · next beyond => exact ih low (Nat.lt_of_not_le beyond)

theorem isqrt_eq_sqrt {n : Nat} (word : n < 2 ^ 32) : isqrt n = n.sqrt :=
  isqrtBits_eq_sqrt 16 (Nat.zero_le n) word

namespace Meter

/-! ## The stages of a window as changes of the record -/

/-- What stages 1 to 3 write, and so what they leave for stage 4 and the checks. The values written are variables here,
so that no comparison of two records evaluates them. -/
theorem bookLiquid_frame (m : Meter) (c : SpotConfig) (g : Option Grade) (p : Nat) :
    ∃ volume rv liquid rm tempClamped accumSat, m.bookLiquid c g p = { m with
      volume, rv, liquid, rm, flags := { m.flags with tempClamped, accumSat } } :=
  ⟨_, _, _, _, _, _, rfl⟩

theorem vapourNum_bookLiquid (m : Meter) (c : SpotConfig) (g : Option Grade) (p period : Nat) :
    (m.bookLiquid c g p).vapourNum c period = m.vapourNum c period := by
  obtain ⟨volume, rv, liquid, rm, tempClamped, accumSat, booked⟩ := m.bookLiquid_frame c g p
  rw [booked]
  rfl

theorem vapourNum_eq {m : Meter} {c : SpotConfig} {root : Nat} (dpRange : m.heldDp.value ≤ 25000)
    (pvRange : m.heldPv.value ≤ 2500) (period : Nat) :
    let dp := if m.heldDp.value < c.dpCutoff then 0 else m.heldDp.value
    root * root ≤ dp * m.heldPv.value → dp * m.heldPv.value < (root + 1) * (root + 1) →
    m.vapourNum c period = root * c.co * period := by
  intro dp low high
  have dpLe : dp ≤ 25000 := by dsimp only [dp]; split <;> omega
  have word : dp * m.heldPv.value < 2 ^ 32 := (Nat.mul_le_mul dpLe pvRange).trans_lt (by decide)
  have whole : isqrt (dp * m.heldPv.value) = root := (isqrt_eq_sqrt word).trans (Nat.eq_sqrt.mpr ⟨low, high⟩).symm
  exact congrArg (· * c.co * period) whole

/-- Stage 4 (R62): one accumulator and its residual, by the phase. -/
theorem bookVapour_eq (m : Meter) (c : SpotConfig) (phase : Phase) (period : Nat) :
    let top := 4294967295
    let inTransfer : Bool := phase = .transfer
    let total := m.vapourNum c period + (if inTransfer then m.rr else m.rc)
    m.bookVapour c phase period = { m with
      vapourReturned := if inTransfer then min (m.vapourReturned + total / 16000000) top else m.vapourReturned
      vapourRecovered := if inTransfer then m.vapourRecovered else min (m.vapourRecovered + total / 16000000) top
      rr := if inTransfer then total % 16000000 else m.rr
      rc := if inTransfer then m.rc else total % 16000000
      flags := { m.flags with
        dpClamped := m.flags.dpClamped || m.heldDp.clamped
        pvClamped := m.flags.pvClamped || m.heldPv.clamped
        accumSat := m.flags.accumSat
          || top < (if inTransfer then m.vapourReturned else m.vapourRecovered) + total / 16000000 } } := by
  cases phase <;> rfl

/-- The estimate and the held run (R65). -/
theorem markEstimated_eq (m : Meter) (estimated : Bool) :
    m.markEstimated estimated = { m with
      estimatedWindows := if estimated then min (m.estimatedWindows + 1) 4294967295 else m.estimatedWindows
      heldRun := if estimated then min (m.heldRun + 1) 5 else 0
      flags := { m.flags with estimated := m.flags.estimated || estimated } } := by
  cases estimated
  · simp [markEstimated]
  · simp [markEstimated, count32, max32]

theorem targetMet_eq (target : Option Nat) (net : Int) :
    targetMet target net = decide (∃ kg ∈ target, (kg : Int) * 1000 ≤ net) := by
  cases target <;> simp [targetMet]

/-- The checks (R66, R67, R68): the record changes in its heel countdown alone. -/
theorem checkWindow_eq (m : Meter) (c : SpotConfig) (g : Option Grade) (target : Option Nat) (w : WindowRead)
    (v : Nat) (estimated : Bool) (fresh : Option Nat) :
    let inTransfer : Bool := w.phase = .transfer
    let hit : Bool := inTransfer ∧ ∃ kg ∈ target, (kg : Int) * 1000 ≤ m.runningNet
    let low : Bool := v * 1000 < gradeHeelFlow g * w.period
    let countdown := if low then m.heelCountdown - 1 else c.heelWindows
    m.checkWindow c g target w v estimated fresh =
      ({ m with heelCountdown := if inTransfer && !hit && !estimated then countdown else m.heelCountdown },
       if hit then .target
       else if inTransfer && !estimated && low && countdown == 0 then .empty
       else if !inTransfer && fresh.any (fun q => q ≤ gradeStripEnd g) then .stripEnd
       else .none) := by
  obtain ⟨phase, period⟩ := w
  intro inTransfer hit low countdown
  cases phase with
  | transfer =>
    have met : targetMet target m.runningNet = hit := by simp [hit, inTransfer, targetMet_eq]
    simp only [checkWindow, met]
    cases hit with
    | true => rfl
    | false => cases estimated <;> simp [inTransfer, low, countdown, windowLow, heelAfter]
  | strip =>
    cases fresh <;> simp [checkWindow, hit, inTransfer]

end Meter

/-- Settles O56: the stages of a window are composed, with the root of stage 4 taken from its bounds. -/
theorem windowIsComputed : Obligations.WindowIsComputed := by
  unfold Obligations.WindowIsComputed
  intro m c g target w p root estimated fresh dpRange pvRange dp low high
  have num : (m.bookLiquid c g p).vapourNum c w.period = root * c.co * w.period :=
    (m.vapourNum_bookLiquid c g p w.period).trans (Meter.vapourNum_eq dpRange pvRange w.period low high)
  obtain ⟨volume, rv, liquid, rm, tempClamped, accumSat, booked⟩ := m.bookLiquid_frame c g p
  rw [booked] at num
  simp only [Meter.computeWindow, Meter.checkWindow_eq, Meter.markEstimated_eq, Meter.bookVapour_eq, booked, num]
  rfl

/-! ## Net mass in kilograms (R75) -/

theorem roundMagnitude_bounds (mode : RoundingMode) (negative : Bool) (q r : Nat) :
    q ≤ roundMagnitude mode negative q r ∧ roundMagnitude mode negative q r ≤ q + 1 := by
  cases mode with
  | nearestEven => rw [roundMagnitude]; split_ifs <;> omega
  | towardZero => exact ⟨le_rfl, Nat.le_succ q⟩
  | up => rw [roundMagnitude]; split_ifs <;> omega
  | down => rw [roundMagnitude]; split_ifs <;> omega

section

variable {net : Int} {q r : Nat}

theorem roundNet_nonneg (pos : 0 ≤ net) (parts : net.natAbs = 1000 * q + r) (small : r ≤ 999) (mode : RoundingMode) :
    roundNet mode net = roundMagnitude mode false q r := by
  have quotient : net.natAbs / 1000 = q := by omega
  have remainder : net.natAbs % 1000 = r := by omega
  simp [roundNet, Int.not_lt.mpr pos, quotient, remainder]

theorem roundNet_neg (neg : net < 0) (parts : net.natAbs = 1000 * q + r) (small : r ≤ 999) (mode : RoundingMode) :
    roundNet mode net = -(roundMagnitude mode true q r : Int) := by
  have quotient : net.natAbs / 1000 = q := by omega
  have remainder : net.natAbs % 1000 = r := by omega
  simp [roundNet, neg, quotient, remainder]

theorem le_roundNet_up (parts : net.natAbs = 1000 * q + r) (small : r ≤ 999) : net ≤ 1000 * roundNet .up net := by
  rcases lt_or_ge net 0 with neg | pos
  · have row : roundMagnitude .up true q r = q := rfl
    rw [roundNet_neg neg parts small, row]
    omega
  · have row : roundMagnitude .up false q r = if r = 0 then q else q + 1 := rfl
    rw [roundNet_nonneg pos parts small, row]
    split_ifs <;> omega

theorem roundNet_down_le (parts : net.natAbs = 1000 * q + r) (small : r ≤ 999) : 1000 * roundNet .down net ≤ net := by
  rcases lt_or_ge net 0 with neg | pos
  · have row : roundMagnitude .down true q r = if r = 0 then q else q + 1 := rfl
    rw [roundNet_neg neg parts small, row]
    split_ifs <;> omega
  · have row : roundMagnitude .down false q r = q := rfl
    rw [roundNet_nonneg pos parts small, row]
    omega

/-- The running net of 32-bit accumulators (R64) gives a figure within these bounds. -/
theorem roundNet_range (parts : net.natAbs = 1000 * q + r) (small : r ≤ 999) (low : -4294967295 ≤ net)
    (high : net ≤ 8589934590) (mode : RoundingMode) : -4294968 ≤ roundNet mode net ∧ roundNet mode net ≤ 8589935 := by
  rcases lt_or_ge net 0 with neg | pos
  · have bounds := roundMagnitude_bounds mode true q r
    rw [roundNet_neg neg parts small]
    omega
  · have bounds := roundMagnitude_bounds mode false q r
    rw [roundNet_nonneg pos parts small]
    omega

end

/-- Settles O57: quotient and remainder of the magnitude are those of the table, and each mode is its row. -/
theorem netIsRounded : Obligations.NetIsRounded := by
  unfold Obligations.NetIsRounded
  intro net q r parts small nearest away
  refine ⟨fun pos => ?_, fun neg => ?_, le_roundNet_up parts small, roundNet_down_le parts small,
    roundNet_range parts small⟩
  · simp only [roundNet_nonneg pos parts small]
    exact ⟨rfl, rfl, rfl, rfl⟩
  · simp only [roundNet_neg neg parts small]
    exact ⟨rfl, rfl, rfl, rfl⟩

end Sys2Proof.Machine
end

section
/-! SUPPORT. The product grades (chapter 4): the density lookup goes to the segment the temperature lies in, and GRADE_LOAD
answers with the first item of R85 that fails. -/

namespace Sys2Proof.Machine

/-! ## The density lookup (R79) -/

section
variable {t : Int} {lo q : Breakpoint}

theorem interpolate_at_lo (lo hi : Breakpoint) : interpolate lo hi lo.temp = lo.density := by
  simp [interpolate]

/-- Where the density falls, it falls by at most what it is at the lower end, so the line stays at or above zero. -/
theorem interpolate_eq {hi : Breakpoint} (low : lo.temp ≤ t) (high : t < hi.temp) :
    (interpolate lo hi t : Int) =
      lo.density + Int.tdiv (((hi.density : Int) - lo.density) * (t - lo.temp)) (hi.temp - lo.temp) := by
  have width : 0 < hi.temp - lo.temp := by omega
  refine Int.toNat_of_nonneg ?_
  rcases le_total (lo.density : Int) hi.density with rising | falling
  · have rise : 0 ≤ Int.tdiv (((hi.density : Int) - lo.density) * (t - lo.temp)) (hi.temp - lo.temp) :=
      Int.tdiv_nonneg (mul_nonneg (by omega) (by omega)) width.le
    omega
  · have drop : 0 ≤ ((lo.density : Int) - hi.density) * (t - lo.temp) := mul_nonneg (by omega) (by omega)
    have bounded : ((lo.density : Int) - hi.density) * (t - lo.temp) ≤ lo.density * (hi.temp - lo.temp) :=
      mul_le_mul (by omega) (by omega) (by omega) (by omega)
    have fall := Int.ediv_le_of_le_mul width bounded
    rw [← neg_sub (lo.density : Int), neg_mul, Int.neg_tdiv, Int.tdiv_eq_ediv_of_nonneg drop]
    omega

/-- The search passes every breakpoint at or below the temperature. -/
theorem densityFrom_append {passed : List Breakpoint} (after : List Breakpoint) (below : ∀ p ∈ passed, p.temp ≤ t)
    (reached : q.temp ≤ t) : densityFrom lo t (passed ++ q :: after) = densityFrom q t after := by
  induction passed generalizing lo with
  | nil => exact if_neg (not_lt.mpr reached)
  | cons p passed ih =>
    obtain ⟨here, later⟩ := List.forall_mem_cons.mp below
    exact (if_neg (not_lt.mpr here)).trans (ih later)

theorem densityFrom_self {after : List Breakpoint} (above : ∀ p ∈ after, q.temp < p.temp) :
    densityFrom q q.temp after = q.density := by
  cases after with
  | nil => rfl
  | cons hi rest => exact (if_pos (above hi List.mem_cons_self)).trans (interpolate_at_lo q hi)

/-- In an increasing table the search starts anew at any breakpoint at or below the temperature. -/
theorem density_from {before after : List Breakpoint}
    (increasing : (before ++ q :: after).Pairwise fun p q => p.temp < q.temp) (reached : q.temp ≤ t) :
    density (before ++ q :: after) t = densityFrom q t after := by
  rw [List.pairwise_append, List.pairwise_cons] at increasing
  obtain ⟨-, ⟨above, -⟩, apart⟩ := increasing
  have below : ∀ p ∈ before, p.temp < q.temp := fun p hp => apart p hp q List.mem_cons_self
  cases before with
  | nil =>
    rcases reached.eq_or_lt with rfl | past
    · exact (if_pos le_rfl).trans (densityFrom_self above).symm
    · exact if_neg (not_le.mpr past)
  | cons first passed =>
    obtain ⟨start, later⟩ := List.forall_mem_cons.mp below
    refine (if_neg (not_le.mpr (start.trans_le reached))).trans ?_
    exact densityFrom_append after (fun p hp => (later p hp).le.trans reached) reached

end

/-- Settles O29: the search starts anew at the last breakpoint at or below the temperature. -/
theorem densityIsInterpolated : Obligations.DensityIsInterpolated := by
  unfold Obligations.DensityIsInterpolated
  intro points increasing t
  refine ⟨?_, ?_, ?_⟩
  · rintro first rest rfl low
    exact if_pos low
  · rintro before last rfl high
    exact density_from increasing high
  · rintro before lo hi after rfl low high
    rw [density_from increasing low, densityFrom, if_pos high, interpolate_eq low high]

/-! ## The items of R85 -/

/-- An answer with the first item that fails, or `ok` where none does. An item is whether it fails, its code and the
breakpoint's number (R191). -/
def judged {α : Type} (items : List (Bool × Nat × Nat)) (ok : Except (Nat × Nat) α) : Except (Nat × Nat) α :=
  (items.find? fun x => x.1).elim ok fun f => .error f.2

section
variable {α : Type} {ok : Except (Nat × Nat) α} {items : List (Bool × Nat × Nat)}

@[simp] theorem judged_nil : judged [] ok = ok := rfl

@[simp] theorem judged_cons (fails : Bool) (item : Nat × Nat) :
    judged ((fails, item) :: items) ok = if fails then .error item else judged items ok := by
  cases fails <;> rfl

theorem judged_append (more : List (Bool × Nat × Nat)) : judged (items ++ more) ok = judged items (judged more ok) := by
  unfold judged
  rw [List.find?_append]
  cases items.find? fun x => x.1 <;> rfl

theorem judged_of_failed {f : Bool × Nat × Nat} (failed : items.find? (fun x => x.1) = some f) :
    judged items ok = .error f.2 := by
  rw [judged, failed]
  rfl

theorem judged_of_passed (passed : items.find? (fun x => x.1) = none) : judged items ok = ok := by
  rw [judged, passed]
  rfl

end

theorem not_inRange (lo hi v : Nat) : (!inRange lo hi v) = (decide (v < lo) || decide (hi < v)) := by
  rw [Bool.eq_iff_iff]
  simp [inRange]

theorem readRoundingMode_eq (v : Nat) : readRoundingMode v = if 3 < v then none
    else some ([RoundingMode.nearestEven, .towardZero, .up, .down].getD v .nearestEven) := by
  match v with
  | 0 | 1 | 2 | 3 => rfl
  | v + 4 => exact (if_pos (by omega)).symm

namespace GradeLoad

variable (b : List Byte)

/-- Breakpoint `k` of a body, counted from 0 (R190). -/
def pointAt (k : Nat) : Breakpoint := ⟨int2 b (18 + 4 * k), num2 b (18 + 4 * k + 2)⟩

/-- Items 1 to 3, before the breakpoints. -/
def firstItems : List (Bool × Nat × Nat) :=
  [(3 < num1 b 0, 1, 0), (readChars 8 b 1 = none, 2, 0), (num1 b 17 < 2 || 16 < num1 b 17, 3, 0)]

/-- Items 4 to 6, on one breakpoint. -/
def pointItems (k : Nat) : List (Bool × Nat × Nat) :=
  [((pointAt b k).temp < -5000 || 6000 < (pointAt b k).temp, 4, k + 1),
    ((pointAt b k).density < 40000 || 65000 < (pointAt b k).density, 5, k + 1),
    (0 < k && (pointAt b k).temp ≤ (pointAt b (k - 1)).temp, 6, k + 1)]

/-- Items 7 to 11, behind the breakpoints. -/
def lastItems : List (Bool × Nat × Nat) :=
  [(3 < num1 b 10, 7, 0), (num2 b 11 < 100 || 20000 < num2 b 11, 8, 0),
    (num2 b 13 < 150 || 800 < num2 b 13, 9, 0), (num2 b 15 < 700 || 2600 < num2 b 15, 10, 0),
    (num2 b 15 ≤ num2 b 13, 11, 0)]

/-- The items in the order of R85. -/
def items : List (Bool × Nat × Nat) :=
  firstItems b ++ (List.range (num1 b 17)).flatMap (pointItems b) ++ lastItems b

/-- The grade a body names, where item 1 passes. -/
def number : GradeNo := Fin.ofNat 4 (num1 b 0)

/-- The record a body spells, where every item passes. -/
def record : Grade where
  label := (readChars 8 b 1).getD []
  breakpoints := (List.range (num1 b 17)).map (pointAt b)
  rounding := [RoundingMode.nearestEven, .towardZero, .up, .down].getD (num1 b 10) .nearestEven
  heelFlow := num2 b 11
  stripEnd := num2 b 13
  maxPressure := num2 b 15

theorem readBreakpoints_eq (m k : Nat) : readBreakpoints b m (18 + 4 * k) = (List.range' k m).map (pointAt b) := by
  induction m generalizing k with
  | zero => rfl
  | succ m ih => exact congrArg (pointAt b k :: ·) (ih (k + 1))

theorem readBreakpoints_first (m : Nat) : readBreakpoints b m 18 = (List.range m).map (pointAt b) := by
  rw [List.range_eq_range']
  exact readBreakpoints_eq b m 0

/-- From breakpoint `k` on, with the temperature before it where there is one, the search is for the first of items 4
to 6 that fails. -/
theorem breakpointFault_eq {α : Type} (ok : Except (Nat × Nat) α) (m k : Nat) :
    (breakpointFault (k + 1) (if k = 0 then none else some (pointAt b (k - 1)).temp)
        ((List.range' k m).map (pointAt b))).elim ok .error =
      judged ((List.range' k m).flatMap (pointItems b)) ok := by
  induction m generalizing k with
  | zero => rfl
  | succ m ih =>
    have order : (!(if k = 0 then none else some (pointAt b (k - 1)).temp).all
          fun t => decide (t < (pointAt b k).temp)) =
        (decide (0 < k) && decide ((pointAt b k).temp ≤ (pointAt b (k - 1)).temp)) := by
      cases k <;> simp [← decide_not]
    have range : (!(decide (-5000 ≤ (pointAt b k).temp) && decide ((pointAt b k).temp ≤ 6000))) =
        (decide ((pointAt b k).temp < -5000) || decide (6000 < (pointAt b k).temp)) := by
      simp [← decide_not]
    rw [List.range'_succ, List.map_cons, List.flatMap_cons, judged_append, ← ih (k + 1), breakpointFault, range,
      not_inRange, order]
    simp only [pointItems, judged_cons, judged_nil, apply_ite (fun f => Option.elim f ok Except.error), Option.elim_some]
    rfl

theorem breakpointFault_first {α : Type} (ok : Except (Nat × Nat) α) (m : Nat) :
    (breakpointFault 1 none ((List.range m).map (pointAt b))).elim ok .error =
      judged ((List.range m).flatMap (pointItems b)) ok := by
  rw [List.range_eq_range']
  exact breakpointFault_eq b ok m 0

section
variable {b}

theorem number_val (passed : (items b).find? (fun x => x.1) = none) : (number b).val = num1 b 0 := by
  have named : ¬3 < num1 b 0 := by simpa using List.find?_eq_none.mp passed (_, 1, 0) List.mem_cons_self
  exact Nat.mod_eq_of_lt (by omega)

theorem label_eq (passed : (items b).find? (fun x => x.1) = none) : readChars 8 b 1 = some (record b).label := by
  have spelt : readChars 8 b 1 ≠ none := by
    simpa using List.find?_eq_none.mp passed (_, 2, 0) (List.mem_cons_of_mem _ List.mem_cons_self)
  obtain ⟨chars, label⟩ := Option.ne_none_iff_exists'.mp spelt
  simp [record, label]

end

/-- The checks of R85 come to the first item that fails. -/
theorem readGradeLoad_eq : readGradeLoad b = judged (items b) (.ok (number b, record b)) := by
  have order : (!decide (num2 b 13 < num2 b 15)) = decide (num2 b 15 ≤ num2 b 13) := by simp [← decide_not]
  rw [items, judged_append, judged_append, ← breakpointFault_first, readGradeLoad, readBreakpoints_first,
    readRoundingMode_eq]
  simp only [firstItems, lastItems, judged_cons, judged_nil, not_inRange, order]
  by_cases unnamed : 3 < num1 b 0
  · have nothing : gradeOf (num1 b 0) = none := dif_neg (by omega)
    simp [unnamed, nothing]
  have named : gradeOf (num1 b 0) = some (number b) :=
    (gradeOf_iff ..).mpr (Nat.mod_eq_of_lt (by omega)).symm
  cases label : readChars 8 b 1 with
  | none => simp [unnamed, named]
  | some chars =>
    simp only [named, unnamed, decide_false, Bool.false_eq_true, if_false, reduceCtorEq]
    refine ite_congr rfl (fun _ => rfl) fun _ => ?_
    cases breakpointFault 1 none ((List.range (num1 b 17)).map (pointAt b)) with
    | some fault => rfl
    | none =>
      by_cases rounding : 3 < num1 b 10
      · simp [rounding]
      · simp [rounding, record, label]

end GradeLoad

/-! ## The verdict (R86, R87) -/

namespace State

open GradeLoad

variable (s : State) {b : List Byte}

theorem loadGrade_range {f : Bool × Nat × Nat} (failed : (items b).find? (fun x => x.1) = some f) :
    s.loadGrade b = s.refuse .range [byte1 f.2.1, byte1 f.2.2] := by
  rw [loadGrade, readGradeLoad_eq, judged_of_failed failed]

theorem loadGrade_passed (passed : (items b).find? (fun x => x.1) = none) :
    s.loadGrade b = if s.spotsOfGrade (number b) = [] then
        ⟨.ok, byte1 (number b).val :: charField 8 (record b).label ++ [byte1 (num1 b 17)],
          s.setGrade (number b) (record b)⟩
      else s.refuse .busy [spotSetByte (s.spotsOfGrade (number b))] := by
  have count : (record b).breakpoints.length = num1 b 17 := by simp [record]
  rw [loadGrade, readGradeLoad_eq, judged_of_passed passed]
  dsimp only
  rw [count]
  cases s.spotsOfGrade (number b) <;> rfl

end State

/-- Settles O28: the checks come to the first item that fails, and where none does the spots of the grade are asked. -/
theorem gradeLoadJudgesInOrder : Obligations.GradeLoadJudgesInOrder := by
  unfold Obligations.GradeLoadJudgesInOrder
  intro tag body s count temp dens points before after failed len
  refine ⟨fun f first => State.exec_owned rfl len (s.loadGrade_range first), fun passed => ?_⟩
  have verdict := s.loadGrade_passed passed
  rw [s.spotsOfGrade_eq] at verdict
  exact ⟨GradeLoad.number body, (GradeLoad.record body).label, GradeLoad.number_val passed, GradeLoad.label_eq passed,
    fun users => State.exec_owned rfl len (verdict.trans (if_neg users)),
    fun free => State.exec_owned rfl len (verdict.trans (if_pos free))⟩

end Sys2Proof.Machine
end

section
/-! SUPPORT. The compressor queue's examination, and the spacing, changeover and age timers (chapter 5): one look at the
head case by case, and that the bound on the grants is never what ends an examination. -/

namespace Sys2Proof.Machine

/-! ## Whether the head is granted (R94, R95) -/

theorem Compressor.grantable_iff {c : Compressor} {kind : Duty} : c.grantable kind = true ↔
    (kind = .push ∧ c.position = .push ∧ (c.mode = .idle ∨ c.mode = .push) ∧ c.pushHolders.length < 4
        ∧ c.spacing = .stopped)
      ∨ (kind = .pull ∧ c.position = .pull ∧ c.mode = .idle) := by
  have stopped : c.spacing.isRunning = false ↔ c.spacing = .stopped := by
    rw [← Bool.not_eq_true, Timer.not_running_iff]
  cases kind with
  | push => simp [grantable, stopped, and_assoc]
  | pull => simp [grantable]

namespace State

variable {s : State} {e : QueueEntry} {rest : List QueueEntry}

theorem frozen_iff : s.frozen = true ↔ s.siding.mode ≠ .run ∨ s.siding.faultActive = true := by
  simp [frozen]

/-! ## A grant shortens the queue (R98) -/

theorem queue_enterTransfer_sublist (s : State) (n : SpotNo) :
    (s.enterTransfer n).comp.queue.Sublist s.comp.queue := by
  unfold enterTransfer
  dsimp only
  split <;> simp

theorem queue_grant_sublist (s : State) (e : QueueEntry) (rest : List QueueEntry) :
    (s.grant e rest).comp.queue.Sublist rest := by
  obtain ⟨n, kind⟩ := e
  cases kind with
  | push => exact queue_enterTransfer_sublist _ n
  | pull => simp [grant, Compressor.grant]

/-! ## One look at the head (R92, R96) -/

theorem examineUpTo_of_frozen (bound : Nat) (frozen : s.frozen = true) : s.examineUpTo bound = s := by
  cases bound with
  | zero => rfl
  | succ bound => rw [examineUpTo, if_pos frozen]

theorem examineUpTo_of_empty (bound : Nat) (empty : s.comp.queue = []) : s.examineUpTo bound = s := by
  cases bound with
  | zero => rfl
  | succ bound => simp [examineUpTo, empty]

/-- What a look at the head of a queue does while grants are not frozen. -/
theorem examineUpTo_cons (bound : Nat) (free : s.frozen = false) (queue : s.comp.queue = e :: rest) :
    s.examineUpTo (bound + 1) =
      if s.comp.grantable e.kind then (s.grant e rest).examineUpTo bound
      else if e.kind != s.comp.position && s.comp.mode == .idle then
        s.setComp (s.comp.beginChangeover e.kind s.siding.config.changeoverTime)
      else s := by
  simp [examineUpTo, free, queue]

/-- Every bound above the length of the queue gives the same examination: a grant takes one entry, so the looks never run
out. -/
theorem examineUpTo_congr {a b : Nat} (ha : s.comp.queue.length < a) (hb : s.comp.queue.length < b) :
    s.examineUpTo a = s.examineUpTo b := by
  induction a generalizing b s with
  | zero => omega
  | succ a ih =>
    obtain ⟨b, rfl⟩ : ∃ k, b = k + 1 := ⟨b - 1, by omega⟩
    cases free : s.frozen with
    | true => rw [examineUpTo_of_frozen _ free, examineUpTo_of_frozen _ free]
    | false =>
      cases queue : s.comp.queue with
      | nil => rw [examineUpTo_of_empty _ queue, examineUpTo_of_empty _ queue]
      | cons e rest =>
        have shorter := (s.queue_grant_sublist e rest).length_le
        rw [queue, List.length_cons] at ha hb
        rw [examineUpTo_cons _ free queue, examineUpTo_cons _ free queue, ih (b := b) (by omega) (by omega)]

/-- A head that is granted is granted, and the new head examined in the same way (R92). -/
theorem examine_of_grantable (free : s.frozen = false) (queue : s.comp.queue = e :: rest)
    (granted : s.comp.grantable e.kind = true) : s.examine = (s.grant e rest).examine := by
  have shorter := (s.queue_grant_sublist e rest).length_le
  rw [examine, examineUpTo_cons _ free queue, if_pos granted, queue, List.length_cons]
  exact examineUpTo_congr (by omega) (by omega)

/-- A head that is not granted begins a changeover or waits (R94 to R96). -/
theorem examine_of_not_grantable (free : s.frozen = false) (queue : s.comp.queue = e :: rest)
    (waits : ¬s.comp.grantable e.kind = true) : s.examine =
      if e.kind ≠ s.comp.position ∧ s.comp.mode = .idle then
        s.setComp (s.comp.beginChangeover e.kind s.siding.config.changeoverTime)
      else s := by
  rw [examine, examineUpTo_cons _ free queue, if_neg waits]
  simp

end State

/-- Settles O26: one look at the head in each of its cases, the look after a grant having bound enough for the rest. -/
theorem queueHeadIsExamined : Obligations.QueueHeadIsExamined := by
  unfold Obligations.QueueHeadIsExamined
  refine fun s => ⟨fun frozen => s.examine_of_frozen (State.frozen_iff.mpr frozen), State.examineUpTo_of_empty _, ?_⟩
  intro run noFault e rest queue granted
  have free : s.frozen = false := by simp [State.frozen, run, noFault]
  have notGranted (h : ¬granted) := State.examine_of_not_grantable free queue (mt Compressor.grantable_iff.mp h)
  refine ⟨fun h => State.examine_of_grantable free queue (Compressor.grantable_iff.mpr h), fun h other idle => ?_,
    fun h stays => ?_⟩
  · rw [notGranted h, if_pos ⟨other, idle⟩]
    rfl
  · rw [notGranted h, if_neg fun begins => stays.elim begins.1 (· begins.2)]

/-! ## The compressor's timers (R89, R97, R99) -/

theorem Timer.ite_isRunning {α : Type} (t : Timer) (a b : α) :
    (if t.isRunning then a else b) = if t = .stopped then b else a := by
  cases t <;> rfl

namespace Compressor

variable {c : Compressor}

theorem completeChangeover_toward {target : Duty} (toward : c.target = some target) : c.completeChangeover =
    { c with mode := .idle, position := target, target := none, changeover := .stopped } := by
  rw [completeChangeover, toward, Option.getD_some]

theorem completeChangeover_nowhere (nowhere : c.target = none) : c.completeChangeover =
    { c with mode := .idle, changeover := .stopped } := by
  rw [completeChangeover, nowhere, Option.getD_none]

end Compressor

/-- The expiry of a running changeover timer (R97). -/
theorem exec_changeoverTimerExpiry_running {s : State} (running : s.comp.changeover ≠ .stopped) :
    exec .changeoverTimerExpiry s = .next (s.setComp s.comp.completeChangeover).examine :=
  if_pos (Timer.isRunning_iff.mpr running)

/-- Settles O41: each timer does what its rule says when it runs, and nothing when it is stopped. -/
theorem compressorTimersAct : Obligations.CompressorTimersAct := by
  unfold Obligations.CompressorTimersAct
  intro s
  have spacing : exec .spacingTimerExpiry s = execSpacingTimerExpiry s := rfl
  have age : exec .ageTimerExpiry s = execAgeTimerExpiry s := rfl
  refine ⟨?_, fun stopped => ?_, fun running target toward => ?_, fun running nowhere => ?_, ?_⟩
  · rw [spacing, execSpacingTimerExpiry, Timer.ite_isRunning, apply_ite Host.Outcome.next]
    rfl
  · exact if_neg (Timer.not_running_iff.mpr stopped)
  · rw [exec_changeoverTimerExpiry_running running, Compressor.completeChangeover_toward toward]
    rfl
  · rw [exec_changeoverTimerExpiry_running running, Compressor.completeChangeover_nowhere nowhere]
    rfl
  · rw [age, execAgeTimerExpiry, Timer.ite_isRunning, apply_ite Host.Outcome.next]
    rfl

end Sys2Proof.Machine
end

section
/-! SUPPORT. SPOT_RESET (chapter 6). -/

namespace Sys2Proof.Machine

/-! ## SPOT_RESET (R116, R117) -/

section
variable {s : State} {n : SpotNo}

/-- An entry to PURGE from a record in which the trip record was cleared (R22, R116). -/
theorem EntersPurge.of_clearedTrip {u : State} {reason : Option EndReason}
    (h : EntersPurge (s.setSpot n { s.spot n with trip := none }) u n reason) : EntersPurge s u n reason := by
  have own := s.spot_setSpot_self n { s.spot n with trip := none }
  have valves : ClosesValves s u n := State.ClosesValves.of_record s n h.valves (by rw [own]) (by rw [own]) (by rw [own])
    (by rw [own]) (by rw [own]) rfl
  refine ⟨h.state, ?_, ?_, h.expired, h.stops, valves, h.nothing, ?_, ?_, ?_, ?_, ?_, ?_, h.closing, h.closingAsked,
    h.abandoned, s.courseOf_of_setSpot n _ h.frame⟩
  · rw [h.endReason, own]
  · rw [h.purge, own]
  · rw [h.car, own]
  · rw [h.bypass, own]
  · rw [h.config, own]
  · rw [h.stripRequested, own]
  · rw [h.seqFlags, own]
  · rw [h.limit, own]

/-- An entry to PURGE leaves the trip record (R22). -/
theorem trip_enterPurge (reason : Option EndReason) : ((s.enterPurge n reason).spot n).trip = (s.spot n).trip := by
  rw [s.spot_enterPurge n reason, State.purgedRecord_field s n (·.trip) fun _ _ => rfl]
  rfl

namespace State

variable {t : TripRecord}

/-- With a cause present the trip stands (R116). -/
theorem resetTrip_refused (tripped : (s.spot n).state = .tripped) (present : s.causesPresent n ≠ []) :
    State.resetTrip n s = s.refuse .notPermitted (causeSetBytes (s.causesPresent n)) := by
  simp [State.resetTrip, tripped, present]

/-- With none present the spot leaves TRIPPED, and the record cleared is told (R116, R117). -/
theorem resetTrip_accepted (tripped : (s.spot n).state = .tripped) (trip : (s.spot n).trip = some t)
    (present : s.causesPresent n = []) {state : SpotState} (goes : ((s.leaveTripped n).spot n).state = state) :
    State.resetTrip n s =
      ⟨.ok, byte1 state.code :: byte1 t.firstOut.number :: causeSetBytes t.causes, s.leaveTripped n⟩ := by
  simp [State.resetTrip, tripped, trip, present, goes]

theorem leaveTripped_metered (metered : s.metered n = true) : s.leaveTripped n =
    (s.setSpot n { s.spot n with trip := none }).enterPurge n
      (if (s.spot n).endReason = none then some .interrupted else none) := by
  simp [leaveTripped, metered]

theorem leaveTripped_ready (unmetered : s.metered n = false) (arms : (s.station n).inputs.arms = true)
    (bond : (s.station n).inputs.bond = true) : s.leaveTripped n =
      s.setSpot n { s.spot n with
        state := .connected, trip := none, settle := .running (1000 * (s.spot n).config.settleTime) } := by
  simp [leaveTripped, unmetered, arms, bond, setSpot_setSpot, SpotRecord.toConnected, Timer.seconds]

theorem leaveTripped_unready (unmetered : s.metered n = false)
    (unready : ¬((s.station n).inputs.arms = true ∧ (s.station n).inputs.bond = true)) :
    s.leaveTripped n = s.setSpot n { s.spot n with state := .assigned, trip := none } := by
  simp [leaveTripped, unmetered, unready, setSpot_setSpot]

end State

end

/-- Settles O22: a cause present refuses the reset; else metering and the inputs say where the spot goes. -/
theorem spotResetDestination : Obligations.SpotResetDestination := by
  unfold Obligations.SpotResetDestination
  intro tag n t s tripped trip r request present begun ready cleared
  have unmetered (h : ¬begun) : s.metered n = false := Bool.eq_false_iff.mpr (mt (metered_iff s n).mp h)
  refine ⟨fun refused => State.exec_named rfl rfl (num1_spot n _) (State.resetTrip_refused tripped refused), fun none => ?_⟩
  have answered {state : SpotState} (goes : ((s.leaveTripped n).spot n).state = state) :
      exec request s = .next ((s.leaveTripped n).answer 0x0B tag .ok (byte1 state.code :: cleared)) :=
    State.exec_named rfl rfl (num1_spot n _) (State.resetTrip_accepted tripped trip none goes)
  refine ⟨fun metered => ?_, fun unmet arrived => ?_, fun unmet unready => ?_⟩
  · have leaves := State.leaveTripped_metered ((metered_iff s n).mpr metered)
    have enters := State.enters_enterPurge (s.setSpot n { s.spot n with trip := .none }) n
      (if (s.spot n).endReason = .none then some .interrupted else .none)
    rw [← leaves] at enters
    refine ⟨s.leaveTripped n, answered enters.state, enters.of_clearedTrip, ?_⟩
    rw [leaves, trip_enterPurge, State.spot_setSpot_self]
  · have leaves := State.leaveTripped_ready (unmetered unmet) arrived.1 arrived.2
    rw [← leaves]
    exact answered (state := .connected) (by rw [leaves, State.spot_setSpot_self])
  · have leaves := State.leaveTripped_unready (unmetered unmet) unready
    rw [← leaves]
    exact answered (state := .assigned) (by rw [leaves, State.spot_setSpot_self])

end Sys2Proof.Machine
end

section
/-! SUPPORT. The siding stop (chapter 6): the armed and the TRIPPED spots and the proof scheduler take it in any order, each
of them once; what a release on the way grants is tripped in its turn. -/

namespace Sys2Proof.Machine

/-! ## Level causes (R107) -/

namespace State

variable {s t : State} {n : SpotNo} {c : TripCause}

theorem metered_congr (windows : (t.meter n).windowsCounted = (s.meter n).windowsCounted)
    (ended : (t.spot n).endReason = (s.spot n).endReason) : t.metered n = s.metered n := by
  rw [metered, metered, windows, ended]

/-- A level cause other than SIDING_STOP stays present while the station record stays and metering has begun. -/
theorem levelPresent_mono (station : t.station n = s.station n) (metered : s.metered n = true → t.metered n = true)
    (level : c.isLevel = true) (other : c ≠ .sidingStop) (present : s.causePresent n c = true) :
    t.causePresent n c = true := by
  cases c with
  | sidingStop => exact absurd rfl other
  | valveFault | overpressure | sensorFault => cases level
  | esd | gas | stationLost | stationLocal => simpa [causePresent, levelCondition, station] using present
  | bondLost | armsLost =>
    simp only [causePresent, Bool.and_eq_true] at present ⊢
    exact ⟨station ▸ present.1, metered present.2⟩

end State

/-! ## A spot that is not yet told -/

/-- Not a START_WAIT in which a grant is taken at once as the expiry of the transfer limit (R12, R16). -/
def SpotRecord.HasTimeLeft (r : SpotRecord) : Prop := r.state ≠ .startWait ∨ r.limitMs ≠ 0

/-- What is left of a spot while others take the stop: at most a grant comes to it, which can end a liquid phase with no
TRANSFER time left (R16, R92, R98), or a valve whose stroke ends is CLOSED (R137). -/
structure AwaitsStop (s t : State) (k : SpotNo) : Prop where
  car : KeepsCar (s.spot k) (t.spot k)
  armed : (t.spot k).state.armed = (s.spot k).state.armed
  metered : s.metered k = true → t.metered k = true
  timeLeft : (s.spot k).HasTimeLeft → (t.spot k).HasTimeLeft ∧ t.metered k = s.metered k

theorem KeepsCar.refl (r : SpotRecord) : KeepsCar r r := ⟨rfl, rfl, rfl, rfl, rfl⟩

theorem KeepsCar.trans {a b c : SpotRecord} (h : KeepsCar a b) (h' : KeepsCar b c) : KeepsCar a c :=
  ⟨h'.car.trans h.car, h'.stripRequested.trans h.stripRequested, h'.seqFlags.trans h.seqFlags, h'.bypass.trans h.bypass,
    h'.config.trans h.config⟩

namespace AwaitsStop

variable {s t u : State} {k : SpotNo}

theorem trans (a : AwaitsStop s t k) (b : AwaitsStop t u k) : AwaitsStop s u k where
  car := a.car.trans b.car
  armed := b.armed.trans a.armed
  metered := b.metered ∘ a.metered
  timeLeft left := by
    obtain ⟨left', same⟩ := a.timeLeft left
    obtain ⟨left'', same'⟩ := b.timeLeft left'
    exact ⟨left'', same'.trans same⟩

theorem of_same (spot : t.spot k = s.spot k) (meter : t.meter k = s.meter k) : AwaitsStop s t k := by
  have metered : t.metered k = s.metered k := State.metered_congr (by rw [meter]) (by rw [spot])
  exact ⟨spot ▸ .refl _, by rw [spot], fun h => metered.trans h, fun left => ⟨spot ▸ left, metered⟩⟩

/-- The end of a stroke writes a command state, which the stop does not look at. -/
theorem of_setValve {side : ValveSide} {x : ValveCommand} (spot : t.spot k = (s.spot k).setValve side x)
    (meter : t.meter k = s.meter k) : AwaitsStop s t k := by
  have metered : t.metered k = s.metered k :=
    State.metered_congr (by rw [meter]) (by rw [spot]; cases side <;> rfl)
  refine ⟨spot ▸ ?_, by rw [spot]; cases side <;> rfl, fun h => metered.trans h, fun left => ⟨spot ▸ ?_, metered⟩⟩
  · cases side <;> exact ⟨rfl, rfl, rfl, rfl, rfl⟩
  · cases side <;> exact left

end AwaitsStop

/-! ## What taking the stop leaves -/

/-- The armed spots and the spot of a stroke in flight are among some spots. -/
def CoversStop (touched : List SpotNo) (s : State) : Prop :=
  ∀ k, (s.spot k).state.armed = true ∨ s.strokeOn k = true → k ∈ touched

theorem CoversStop.singleton {touched : List SpotNo} {s : State} {k : SpotNo} (covers : CoversStop touched s)
    (reached : (s.spot k).state.armed = true ∨ s.strokeOn k = true) : [k] ⊆ touched := by
  simpa using covers k reached

/-- The armed spots and the spot of a stroke in flight. -/
def State.stopReach (s : State) : List SpotNo :=
  allSpots.filter fun n => (s.spot n).state.armed = true ∨ s.strokeOn n = true

theorem coversStop_reach (s : State) : CoversStop s.stopReach s := fun k reached => by
  simpa [State.stopReach, mem_allSpots] using reached

/-- What is left once those told, `none` being the proof scheduler, have taken the stop: a spot not told awaits it, and
one that is not armed is untouched, but for a valve whose stroke ends. -/
structure StopTaken (s t : State) (told : List (Option SpotNo)) : Prop where
  event : Event s t
  tickets : t.tickets = s.tickets
  position : t.comp.position = s.comp.position
  stations : t.link.stations = s.link.stations
  link : ∀ touched, CoversStop touched s → LinkOf s.link t.link touched
  awaits : ∀ k, some k ∉ told → AwaitsStop s t k
  wasArmed : ∀ k, (t.spot k).state.armed = true → (s.spot k).state.armed = true
  still : ∀ k, some k ∉ told → (s.spot k).state.armed = false → none ∉ told ∨ s.strokeOn k = false →
    t.spot k = s.spot k ∧ t.meter k = s.meter k
  proof : none ∉ told → t.proof = s.proof
  stroke : t.proof.stroke = s.proof.stroke ∨ t.proof.stroke = none

namespace StopTaken

variable {s t u : State} {told later : List (Option SpotNo)} {k : SpotNo}

theorem strokeOn (h : StopTaken s t told) (stroke : s.strokeOn k = false) : t.strokeOn k = false := by
  unfold State.strokeOn at stroke ⊢
  rcases h.stroke with same | ended
  · rwa [same]
  · rw [ended]

theorem covers (h : StopTaken s t told) {touched : List SpotNo} (covers : CoversStop touched s) : CoversStop touched t :=
  fun k reached => covers k (reached.imp (h.wasArmed k) fun on => by_contra fun off => by
    simp [h.strokeOn (Bool.eq_false_iff.mpr off)] at on)

theorem station (h : StopTaken s t told) (k : SpotNo) : t.station k = s.station k := by
  rw [State.station, State.station, h.stations]

theorem trans (a : StopTaken s t told) (b : StopTaken t u later) : StopTaken s u (told ++ later) where
  event := a.event.trans b.event
  tickets := b.tickets.trans a.tickets
  position := b.position.trans a.position
  stations := b.stations.trans a.stations
  link touched covers := (a.link touched covers).trans (b.link touched (a.covers covers))
  awaits k out := by
    rw [List.mem_append, not_or] at out
    exact (a.awaits k out.1).trans (b.awaits k out.2)
  wasArmed k := a.wasArmed k ∘ b.wasArmed k
  still k out unarmed calm := by
    rw [List.mem_append, not_or] at out
    have calm' : none ∉ told ∨ s.strokeOn k = false :=
      calm.imp_left fun quiet there => quiet (List.mem_append_left _ there)
    obtain ⟨spot, meter⟩ := a.still k out.1 unarmed calm'
    obtain ⟨spot', meter'⟩ := b.still k out.2 (by rw [spot]; exact unarmed)
      (calm.imp (fun quiet there => quiet (List.mem_append_right _ there)) a.strokeOn)
    exact ⟨spot'.trans spot, meter'.trans meter⟩
  proof out := by
    rw [List.mem_append, not_or] at out
    exact (b.proof out.2).trans (a.proof out.1)
  stroke := by
    rcases b.stroke with same | ended
    · rw [same]
      exact a.stroke
    · exact .inr ended

/-- A change of the spots' courses reaches no stroke. -/
theorem of_course (course : Course s t) (position : t.comp.position = s.comp.position)
    (link : ∀ touched, CoversStop touched s → LinkOf s.link t.link touched)
    (awaits : ∀ k, some k ∉ told → AwaitsStop s t k)
    (wasArmed : ∀ k, (t.spot k).state.armed = true → (s.spot k).state.armed = true)
    (still : ∀ k, some k ∉ told → (s.spot k).state.armed = false → t.spot k = s.spot k ∧ t.meter k = s.meter k) :
    StopTaken s t told :=
  ⟨course.event, course.tickets, position, course.link.stations, link, awaits, wasArmed,
    fun k out unarmed _ => still k out unarmed, fun _ => course.proof, .inl (by rw [course.proof])⟩

/-- A change that leaves the records of all but those told, and the link. -/
theorem of_records (course : Course s t) (position : t.comp.position = s.comp.position) (link : t.link = s.link)
    (records : ∀ k, some k ∉ told → t.spot k = s.spot k ∧ t.meter k = s.meter k)
    (wasArmed : ∀ k, (t.spot k).state.armed = true → (s.spot k).state.armed = true) : StopTaken s t told :=
  of_course course position (fun _ _ => link ▸ .refl ..) (fun k out => .of_same (records k out).1 (records k out).2)
    wasArmed (fun k out _ => records k out)

theorem refl (s : State) (told : List (Option SpotNo)) : StopTaken s s told :=
  of_records (.refl _) rfl rfl (fun _ _ => ⟨rfl, rfl⟩) fun _ => id

/-! ### Grants on the way (R92, R98) -/

/-- The spot of a head that is granted was waiting, and goes on to a state in which it is still armed (R12, R16, R17). -/
theorem awaits_grant {out : List SpotNo} (h : SharesOn out s) {e : QueueEntry} {rest : List QueueEntry}
    (queue : s.comp.queue = e :: rest) : (s.spot e.spot).state.armed = true ∧ AwaitsStop s (s.grant e rest) e.spot
      ∧ (s.grant e rest).comp.position = s.comp.position := by
  obtain ⟨-, onPush, atLimit, onPull⟩ := grantsMoveTheHeadSpot s e rest
  have head : e ∈ s.comp.queue := queue ▸ List.mem_cons_self
  have fits := h.spots e.spot fun there => h.noEntry _ there e head rfl
  cases kind : e.kind with
  | push =>
    have waits : (s.spot e.spot).state = .startWait := fits.pushEntry.mp (kind ▸ head)
    refine ⟨by rw [waits]; rfl, ?_⟩
    by_cases limit : (s.spot e.spot).limitMs = 0
    · obtain ⟨state, ended, -, comp, -, -, -, car, -⟩ := atLimit kind limit
      have metered : (s.grant e rest).metered e.spot = true := (metered_iff _ _).mpr (.inr (by rw [ended]; nofun))
      have spent : ¬(s.spot e.spot).HasTimeLeft := by simp [SpotRecord.HasTimeLeft, waits, limit]
      exact ⟨⟨car, by rw [state, waits]; rfl, fun _ => metered, fun left => absurd left spent⟩, by rw [comp]; rfl⟩
    · obtain ⟨comp, state, -, -, -, ended, car, -, meter, -⟩ := onPush kind limit
      have metered : (s.grant e rest).metered e.spot = s.metered e.spot := State.metered_congr (by rw [meter]) ended
      exact ⟨⟨car, by rw [state, waits]; rfl, fun h => metered.trans h, fun _ => ⟨.inl (by rw [state]; nofun), metered⟩⟩,
        by rw [comp]⟩
  | pull =>
    have waits : (s.spot e.spot).state = .stripWait := fits.pullEntry.mp (kind ▸ head)
    obtain ⟨comp, state, -, -, ended, car, -, meter, -⟩ := onPull kind
    have metered : (s.grant e rest).metered e.spot = s.metered e.spot := State.metered_congr (by rw [meter]) ended
    exact ⟨by rw [waits]; rfl, ⟨car, by rw [state, waits]; rfl, fun h => metered.trans h,
      fun _ => ⟨.inl (by rw [state]; nofun), metered⟩⟩, by rw [comp]⟩

theorem grant {out : List SpotNo} (h : SharesOn out s) {e : QueueEntry} {rest : List QueueEntry}
    (queue : s.comp.queue = e :: rest) : StopTaken s (s.grant e rest) [] := by
  obtain ⟨armed, awaits, position⟩ := awaits_grant h queue
  have others (k : SpotNo) (ne : k ≠ e.spot) :
      (s.grant e rest).spot k = s.spot k ∧ (s.grant e rest).meter k = s.meter k :=
    ⟨s.spot_grant_ne k e rest ne, s.meter_grant_ne k e rest ne⟩
  have awaits (k : SpotNo) : AwaitsStop s (s.grant e rest) k := by
    by_cases same : k = e.spot
    · exact same ▸ awaits
    · exact .of_same (others k same).1 (others k same).2
  refine of_course (.grant ..) position (fun touched covers => (LinkOf.grant ..).mono ?_) (fun k _ => awaits k)
    (fun k => ((awaits k).armed ▸ ·)) fun k _ unarmed => others k ?_
  · exact covers.singleton (.inl armed)
  · rintro rfl
    rw [armed] at unarmed
    cases unarmed

theorem examineUpTo {out : List SpotNo} (bound : Nat) (h : SharesOn out s) : StopTaken s (s.examineUpTo bound) [] := by
  induction bound generalizing s with
  | zero => exact refl ..
  | succ bound ih =>
    cases frozen : s.frozen with
    | true =>
      rw [State.examineUpTo_of_frozen _ frozen]
      exact refl ..
    | false =>
      cases queue : s.comp.queue with
      | nil =>
        rw [State.examineUpTo_of_empty _ queue]
        exact refl ..
      | cons e rest =>
        rw [State.examineUpTo_cons bound frozen queue]
        split
        next granted => exact (grant h queue).trans (ih (h.grant queue granted))
        next =>
          split
          · exact of_records (.setComp ..) rfl rfl (fun _ _ => ⟨rfl, rfl⟩) fun _ => id
          · exact refl ..

theorem afterRelease (h : SharesFollowStates s) (n : SpotNo) : StopTaken s (s.afterRelease n) [] := by
  have released : SharesOn [n] ({ s with comp := s.comp.released [n] } : State) := by
    have left := h.on.leave n (s.spot n)
    rwa [State.setSpot_spot, Compressor.drop_eq] at left
  have gives : StopTaken s ({ s with comp := s.comp.released [n] } : State) [] :=
    of_records (.setComp ..) rfl rfl (fun _ _ => ⟨rfl, rfl⟩) fun _ => id
  unfold State.afterRelease
  dsimp only
  split
  · exact gives.trans (examineUpTo _ released)
  · exact gives

/-! ### One of them takes it (R113, R115, R125, R138) -/

/-- A spot that trips has taken the stop, and its release is all that reaches another. -/
theorem of_entersTripped (h : SharesFollowStates s) {n : SpotNo} {r : TripRecord} (armed : (s.spot n).state.armed = true)
    (enters : EntersTripped s t n r) : StopTaken s t [some n] := by
  have release := afterRelease h n
  obtain ⟨course, comp, others, link, -⟩ := enters.frame
  have apart {k : SpotNo} (out : some k ∉ [some n]) : k ≠ n := by simpa using out
  refine of_course course (by rw [comp, release.position]) (fun touched covers => ?_) (fun k out => ?_)
    (fun k armed' => ?_) fun k out unarmed => ?_
  · exact (release.link touched covers).trans (link.mono (covers.singleton (.inl armed)))
  · exact (release.awaits k (by simp)).trans (.of_same (others k (apart out)).1 (others k (apart out)).2)
  · by_cases same : k = n
    · exact same ▸ armed
    · rw [(others k same).1] at armed'
      exact release.wasArmed k armed'
  · obtain ⟨spot, meter⟩ := release.still k (by simp) unarmed (.inl (by simp))
    exact ⟨(others k (apart out)).1.trans spot, (others k (apart out)).2.trans meter⟩

end StopTaken

namespace State

variable {s : State} {n : SpotNo}

theorem takeStop_armed (armed : (s.spot n).state.armed = true) : s.takeStop (some n) = s.trip n [.sidingStop] := by
  rw [takeStop, takeCauses, if_pos armed]

theorem takeStop_tripped (tripped : (s.spot n).state = .tripped) :
    s.takeStop (some n) = s.setSpot n ((s.spot n).addCauses [.sidingStop]) := by
  rw [takeStop, takeCauses, if_neg (by rw [tripped]; decide), if_pos (by rw [tripped]; rfl), onSpot_eq]

theorem takeStop_other (unarmed : (s.spot n).state.armed = false) (other : (s.spot n).state ≠ .tripped) :
    s.takeStop (some n) = s := by
  rw [takeStop, takeCauses, if_neg (by rw [unarmed]; decide), if_neg (by simpa using other)]

theorem abortStroke_none (rests : s.proof.stroke = none) (drive : Bool) : s.abortStroke drive = s := by
  rw [abortStroke, rests]

/-- A stroke in flight that is ABORTED has ended with that result (R137, R138). -/
theorem ends_abortStroke {k : Stroke} (flying : s.proof.stroke = some k) (drive : Bool) :
    EndsStroke s (s.abortStroke drive) k { s.proofRecord k.valve with lastResult := some .aborted } (drive = true) := by
  rw [abortStroke, flying]
  exact ends_endStroke ..

end State

namespace StopTaken

variable {s : State}

/-- The proof scheduler has taken the stop. -/
theorem abortStroke (s : State) : StopTaken s (s.abortStroke true) [none] := by
  cases flying : s.proof.stroke with
  | none =>
    rw [State.abortStroke_none flying]
    exact refl ..
  | some k =>
    have ends := State.ends_abortStroke flying true
    set t := s.abortStroke true
    have meter (j : SpotNo) : t.meter j = s.meter j := by rw [State.meter, State.meter, ends.frame.meters]
    have on : s.strokeOn (valveSpot k.valve) = true := by simp [State.strokeOn, flying]
    have awaits (j : SpotNo) : AwaitsStop s t j := by
      by_cases own : j = valveSpot k.valve
      · exact .of_setValve (own ▸ ends.valve) (meter j)
      · exact .of_same (ends.frame.others j own) (meter j)
    refine ⟨ends.frame.event, ends.frame.tickets, by rw [ends.frame.comp], ends.frame.link.stations,
      fun touched covers => ?_, fun j _ => awaits j, fun j => ((awaits j).armed ▸ ·),
      fun j _ _ calm => ⟨ends.frame.others j ?_, meter j⟩,
      fun out => absurd (List.mem_singleton_self _) out, .inr (by rw [ends.proof])⟩
    · exact ends.frame.link.mono (covers.singleton (.inr on))
    · rintro rfl
      exact calm.elim (· (List.mem_singleton_self _)) fun off => absurd (on.symm.trans off) (by decide)

theorem takeStop (h : SharesFollowStates s) (told : Option SpotNo) : StopTaken s (s.takeStop told) [told] := by
  cases told with
  | none => exact abortStroke s
  | some n =>
    cases armed : (s.spot n).state.armed with
    | true =>
      rw [State.takeStop_armed armed]
      exact of_entersTripped h armed (State.enters_trip ..)
    | false =>
      by_cases tripped : (s.spot n).state = .tripped
      · rw [State.takeStop_tripped tripped]
        have apart {k : SpotNo} (out : some k ∉ [some n]) : k ≠ n := by simpa using out
        refine of_records (.setSpot ..) rfl rfl (fun k out => ⟨by rw [State.spot_setSpot, if_neg (apart out)], rfl⟩) fun k => ?_
        rw [State.spot_setSpot]
        split
        next same => exact same ▸ id
        next => exact id
      · rw [State.takeStop_other armed tripped]
        exact refl ..

/-- Several of them have taken it, one after the other. -/
theorem foldl (h : SharesFollowStates s) (told : List (Option SpotNo)) :
    StopTaken s (told.foldl State.takeStop s) told := by
  induction told generalizing s with
  | nil => exact refl ..
  | cons x told ih => exact (takeStop h x).trans (ih (h.takeStop x))

end StopTaken

/-! ## Each of them takes it once (log 6) -/

theorem exists_split {α : Type} {l : List α} {x : α} (once : l.Nodup) (mem : x ∈ l) :
    ∃ before after, l = before ++ x :: after ∧ x ∉ before ∧ x ∉ after := by
  obtain ⟨before, after, rfl⟩ := List.append_of_mem mem
  obtain ⟨-, later, apart⟩ := List.nodup_append.mp once
  exact ⟨before, after, rfl, fun there => apart x there x List.mem_cons_self rfl, (List.nodup_cons.mp later).1⟩

/-- The place of one of those told: the machine as the others before it leave it, and what the others after it do. -/
theorem StopTaken.split {s : State} {told : List (Option SpotNo)} {x : Option SpotNo} (h : SharesFollowStates s)
    (once : told.Nodup) (mem : x ∈ told) : ∃ v before after, told = before ++ x :: after ∧ x ∉ before ∧ x ∉ after
      ∧ SharesFollowStates v ∧ StopTaken s v before
      ∧ told.foldl State.takeStop s = after.foldl State.takeStop (v.takeStop x) := by
  obtain ⟨before, after, rfl, notBefore, notAfter⟩ := exists_split once mem
  rw [List.foldl_append, List.foldl_cons]
  exact ⟨_, before, after, rfl, notBefore, notAfter, h.foldl (fun _ x t => t.takeStop x) before, foldl h before, rfl⟩

/-! ## A spot that trips on the stop (R26, R113, R125) -/

/-- The record of a spot that has tripped on the stop. -/
structure SpotRecord.TripsFrom (r r' : SpotRecord) (t : TripRecord) : Prop where
  state : r'.state = .tripped
  phase : r'.resumePhase = none
  holdReason : r'.holdReason = none
  stops : StopsMoving r'
  settle : r'.settle = .stopped
  purge : r'.purge = .stopped
  car : KeepsCar r r'
  deferred : r'.openDeferred = ⟨false, false⟩
  valveL : r'.valveL ∈ [ValveCommand.closed, .closing]
  valveV : r'.valveV ∈ [ValveCommand.closed, .closing]
  trip : r'.trip = some t

theorem ValveCommand.commandedClosed_mem (c : ValveCommand) : c.commandedClosed ∈ [ValveCommand.closed, .closing] := by
  cases c <;> decide

namespace SpotRecord.TripsFrom

variable {r r' : SpotRecord} {t : TripRecord}

theorem of_entersTripped {s v u : State} {n : SpotNo} (car : KeepsCar (s.spot n) (v.spot n)) (h : EntersTripped v u n t) :
    (s.spot n).TripsFrom (u.spot n) t :=
  ⟨h.state, h.phase, h.holdReason, h.stops, h.settle, h.purge, car.trans h.car, h.valves.deferred,
    h.valves.valveL ▸ ValveCommand.commandedClosed_mem _,
    h.valves.valveV ▸ ValveCommand.commandedClosed_mem _, h.trip⟩

theorem setValve (h : r.TripsFrom r' t) (side : ValveSide) : r.TripsFrom (r'.setValve side .closed) t := by
  obtain ⟨window, strip, limit⟩ := h.stops
  obtain ⟨car, stripRequested, seqFlags, bypass, config⟩ := h.car
  cases side
  · exact ⟨h.state, h.phase, h.holdReason, ⟨window, strip, limit⟩, h.settle, h.purge,
      ⟨car, stripRequested, seqFlags, bypass, config⟩, h.deferred, List.mem_cons_self, h.valveV, h.trip⟩
  · exact ⟨h.state, h.phase, h.holdReason, ⟨window, strip, limit⟩, h.settle, h.purge,
      ⟨car, stripRequested, seqFlags, bypass, config⟩, h.deferred, h.valveL, List.mem_cons_self, h.trip⟩

end SpotRecord.TripsFrom

/-! ## What the end of a stroke writes (R137, R138) -/

theorem SpotRecord.state_setValve (r : SpotRecord) (side : ValveSide) (x : ValveCommand) :
    (r.setValve side x).state = r.state := by cases side <;> rfl

namespace State

variable (s : State) (drive : Bool)

theorem stroke_abortStroke : (s.abortStroke drive).proof.stroke = none := by
  cases flying : s.proof.stroke with
  | none => rw [abortStroke_none flying, flying]
  | some k => rw [(ends_abortStroke flying drive).proof]

theorem strokeOn_abortStroke (k : SpotNo) : (s.abortStroke drive).strokeOn k = false := by
  rw [strokeOn, stroke_abortStroke]

theorem spot_abortStroke (k : SpotNo) : (s.abortStroke drive).spot k = s.spot k
    ∨ ∃ side, (s.abortStroke drive).spot k = (s.spot k).setValve side .closed := by
  cases flying : s.proof.stroke with
  | none => exact .inl (by rw [abortStroke_none flying])
  | some j =>
    have ends := ends_abortStroke flying drive
    by_cases own : k = valveSpot j.valve
    · exact .inr ⟨valveSideOf j.valve, own ▸ ends.valve⟩
    · exact .inl (ends.frame.others k own)

/-- The stroke in flight, if there is one, is ABORTED; every other proof record stays. -/
theorem proofRecord_abortStroke (v : ValveIndex) : (s.abortStroke drive).proofRecord v =
    if s.proof.stroke.map Stroke.valve = some v then { s.proofRecord v with lastResult := some .aborted }
    else s.proofRecord v := by
  cases flying : s.proof.stroke with
  | none => rw [abortStroke_none flying, if_neg (by simp)]
  | some k =>
    have ends := ends_abortStroke flying drive
    by_cases own : k.valve = v
    · subst own
      exact ends.record.trans (if_pos rfl).symm
    · rw [ends.records v (Ne.symm own), if_neg (by simpa using own)]

/-- An unarmed spot that is not told keeps its record, but for a valve whose stroke ends. -/
theorem spot_foldl_takeStop {s : State} (h : SharesFollowStates s) {told : List (Option SpotNo)} {k : SpotNo}
    (out : some k ∉ told) (unarmed : (s.spot k).state.armed = false) :
    (told.foldl takeStop s).spot k = s.spot k
      ∨ ∃ side, (told.foldl takeStop s).spot k = (s.spot k).setValve side .closed := by
  induction told generalizing s with
  | nil => exact .inl rfl
  | cons x told ih =>
    rw [List.mem_cons, not_or] at out
    have here := StopTaken.takeStop h x
    rw [List.foldl_cons]
    cases x with
    | some m =>
      obtain ⟨spot, -⟩ := here.still k (by simpa using out.1) unarmed (.inl (by simp))
      have rest := ih (h.takeStop _) out.2 (by rw [spot]; exact unarmed)
      rwa [spot] at rest
    | none =>
      have written := s.spot_abortStroke true k
      have unarmed' : ((s.abortStroke true).spot k).state.armed = false := by
        rcases written with same | ⟨side, closed⟩
        · rw [same, unarmed]
        · rw [closed, SpotRecord.state_setValve, unarmed]
      obtain ⟨spot, -⟩ :=
        (StopTaken.foldl (h.takeStop none) told).still k out.2 unarmed' (.inr (s.strokeOn_abortStroke true k))
      rw [spot]
      exact written

end State

/-! ## The whole siding takes the stop (R125) -/

/-- Those the stop touches are told, each of them once: the armed and the TRIPPED spots, and the proof scheduler while a
stroke is in flight. -/
structure TellsStop (s : State) (told : List (Option SpotNo)) : Prop where
  shares : SharesFollowStates s
  once : told.Nodup
  spots : ∀ n, some n ∈ told ↔ (s.spot n).state.armed = true ∨ (s.spot n).state = .tripped
  scheduler : none ∈ told ↔ s.proof.stroke ≠ none

namespace TellsStop

variable {s : State} {told : List (Option SpotNo)} {n : SpotNo}

/-- An armed spot trips on the stop, with the level causes present as others told before it leave them. -/
theorem trips (h : TellsStop s told) (armed : (s.spot n).state.armed = true) : ∃ v : State, AwaitsStop s v n
    ∧ v.station n = s.station n ∧ (s.spot n).TripsFrom ((told.foldl State.takeStop s).spot n) ⟨.sidingStop,
        TripCause.all.filter fun c => c = .sidingStop ∨ (c.isLevel = true ∧ v.causePresent n c = true)⟩ := by
  obtain ⟨v, before, after, -, notBefore, notAfter, shares, taken, rest⟩ :=
    StopTaken.split h.shares h.once ((h.spots n).mpr (.inl armed))
  have awaits := taken.awaits n notBefore
  have enters := v.enters_trip n .sidingStop []
  rw [← State.takeStop_armed (awaits.armed.trans armed), State.trip_causes] at enters
  simp only [List.mem_singleton] at enters
  refine ⟨v, awaits, taken.station n, ?_⟩
  have trips := SpotRecord.TripsFrom.of_entersTripped awaits.car enters
  rw [rest]
  rcases State.spot_foldl_takeStop (shares.takeStop _) notAfter (by rw [enters.state]; rfl) with same | ⟨side, closed⟩
  · rw [same]
    exact trips
  · rw [closed]
    exact trips.setValve side

/-- No spot is armed afterwards. -/
theorem unarmed (h : TellsStop s told) (n : SpotNo) : ((told.foldl State.takeStop s).spot n).state.armed = false := by
  refine Bool.eq_false_iff.mpr fun armed => ?_
  obtain ⟨v, -, -, trips⟩ := h.trips ((StopTaken.foldl h.shares told).wasArmed n armed)
  rw [trips.state] at armed
  cases armed

/-- A TRIPPED spot without a stroke adds the cause. -/
theorem adds (h : TellsStop s told) (tripped : (s.spot n).state = .tripped) (calm : s.strokeOn n = false) :
    (told.foldl State.takeStop s).spot n = (s.spot n).addCauses [.sidingStop]
      ∧ (told.foldl State.takeStop s).meter n = s.meter n := by
  obtain ⟨v, before, after, -, notBefore, notAfter, shares, taken, rest⟩ :=
    StopTaken.split h.shares h.once ((h.spots n).mpr (.inr tripped))
  obtain ⟨spot, meter⟩ := taken.still n notBefore (by rw [tripped]; rfl) (.inr calm)
  have own := State.takeStop_tripped (s := v) (n := n) (by rw [spot, tripped])
  have there := v.spot_setSpot_self n ((v.spot n).addCauses [.sidingStop])
  rw [← own] at there
  obtain ⟨spot', meter'⟩ := (StopTaken.foldl (shares.takeStop (some n)) after).still n notAfter
    (by rw [there, spot]; exact congrArg SpotState.armed tripped)
    (.inr (by rw [own]; exact taken.strokeOn calm))
  rw [rest, spot', meter', there, spot, own, State.meter_setSpot, meter]
  exact ⟨rfl, rfl⟩

/-- A spot in any other state, without a stroke, is untouched. -/
theorem untouched (h : TellsStop s told) (unarmed : (s.spot n).state.armed = false) (other : (s.spot n).state ≠ .tripped)
    (calm : s.strokeOn n = false) : (told.foldl State.takeStop s).spot n = s.spot n
      ∧ (told.foldl State.takeStop s).meter n = s.meter n :=
  (StopTaken.foldl h.shares told).still n (fun there => ((h.spots n).mp there).elim (by simp [unarmed]) other) unarmed
    (.inr calm)

/-- The place of the proof scheduler, which takes the stop while a stroke is in flight. -/
theorem aborts (h : TellsStop s told) {k : Stroke} (flying : s.proof.stroke = some k) :
    ∃ v before after, none ∉ before ∧ none ∉ after ∧ (∀ n, some n ∉ told → some n ∉ before ∧ some n ∉ after)
      ∧ StopTaken s v before ∧ v.proof.stroke = some k
      ∧ StopTaken (v.abortStroke true) (told.foldl State.takeStop s) after := by
  obtain ⟨v, before, after, order, notBefore, notAfter, shares, taken, rest⟩ :=
    StopTaken.split h.shares h.once (h.scheduler.mpr (by rw [flying]; nofun))
  refine ⟨v, before, after, notBefore, notAfter, fun n out => ?_, taken, by rw [taken.proof notBefore, flying], ?_⟩
  · simpa [order, not_or] using out
  · rw [rest]
    exact .foldl (shares.takeStop none) after

/-- No stroke is in flight afterwards, and the one that was is ABORTED. -/
theorem proofs (h : TellsStop s told) : (told.foldl State.takeStop s).proof.stroke = none
    ∧ ∀ v, (told.foldl State.takeStop s).proofRecord v =
      if s.proof.stroke.map Stroke.valve = some v then { s.proofRecord v with lastResult := some .aborted }
      else s.proofRecord v := by
  suffices ∃ b : State, b.proof = s.proof ∧ (told.foldl State.takeStop s).proof = (b.abortStroke true).proof by
    obtain ⟨b, before, after⟩ := this
    refine ⟨by rw [after, b.stroke_abortStroke], fun v => ?_⟩
    have record := b.proofRecord_abortStroke true v
    rw [State.proofRecord, ← after] at record
    rw [State.proofRecord, record, State.proofRecord, State.proofRecord, before]
  cases flying : s.proof.stroke with
  | none =>
    refine ⟨s, rfl, ?_⟩
    rw [State.abortStroke_none flying]
    exact (StopTaken.foldl h.shares told).proof fun there => h.scheduler.mp there flying
  | some k =>
    obtain ⟨b, before, after, notBefore, notAfter, -, taken, -, rest⟩ := h.aborts flying
    exact ⟨b, taken.proof notBefore, rest.proof notAfter⟩

/-- The valve of a stroke on a VACANT spot is CLOSED, and a CLOSE is asked for (R137). -/
theorem closes (h : TellsStop s told) {k : Stroke} (flying : s.proof.stroke = some k)
    (vacant : (s.spot (valveSpot k.valve)).state = .vacant) :
    (told.foldl State.takeStop s).spot (valveSpot k.valve) =
        (s.spot (valveSpot k.valve)).setValve (valveSideOf k.valve) .closed
      ∧ ((s.station (valveSpot k.valve)).status.takesRequests = true →
        (told.foldl State.takeStop s).link.hasPending (some (valveSpot k.valve)) .close = true) := by
  obtain ⟨v, before, after, notBefore, notAfter, apart, taken, flying', rest⟩ := h.aborts flying
  obtain ⟨outBefore, outAfter⟩ := apart (valveSpot k.valve) fun there => by
    simpa [vacant, SpotState.armed] using (h.spots _).mp there
  obtain ⟨spot, -⟩ := taken.still _ outBefore (by rw [vacant]; rfl) (.inl notBefore)
  have ends := State.ends_abortStroke flying' true
  have valve := ends.valve
  rw [spot] at valve
  have unarmed : ((v.abortStroke true).spot (valveSpot k.valve)).state.armed = false := by
    rw [valve, SpotRecord.state_setValve, vacant]
    rfl
  have off := v.strokeOn_abortStroke true (valveSpot k.valve)
  refine ⟨by rw [(rest.still _ outAfter unarmed (.inr off)).1, valve], fun takes => ?_⟩
  rw [(rest.link _ (coversStop_reach _)).hasPending (by simp [State.stopReach, unarmed, off])]
  exact ends.driven rfl (by rw [taken.station]; exact takes)

end TellsStop

/-- With no spot armed nothing is left of the compressor's shares and queue (R90, R91). -/
theorem SharesFollowStates.no_claims {s : State} (h : SharesFollowStates s)
    (unarmed : ∀ n, (s.spot n).state.armed = false) : s.comp.queue = [] ∧ s.comp.pushHolders = []
      ∧ s.comp.pullHolder = none ∧ (s.comp.mode = .idle ∨ s.comp.mode = .changeover) ∧ ∀ n, HoldsNothing s.comp n := by
  have never (n : SpotNo) {state : SpotState} (armed : state.armed = true) : (s.spot n).state ≠ state := by
    rintro rfl
    rw [unarmed] at armed
    cases armed
  have push : s.comp.pushHolders = [] :=
    List.eq_nil_iff_forall_not_mem.mpr fun n mem => never n rfl ((h.spots n).pushShare.mp mem)
  have pull : s.comp.pullHolder = none :=
    Option.eq_none_iff_forall_ne_some.mpr fun n holds => never n rfl ((h.spots n).pullShare.mp holds)
  have queue : s.comp.queue = [] := List.eq_nil_iff_forall_not_mem.mpr fun ⟨n, kind⟩ mem => by
    cases kind with
    | push => exact never n rfl ((h.spots n).pushEntry.mp mem)
    | pull => exact never n rfl ((h.spots n).pullEntry.mp mem)
  refine ⟨queue, push, pull, ?_, fun n => ⟨by simp [push], by simp [pull], by simp [queue]⟩⟩
  cases mode : s.comp.mode with
  | idle => exact .inl rfl
  | changeover => exact .inr rfl
  | push => exact absurd push (h.comp.pushMode.mp mode)
  | pull => exact absurd pull (h.comp.pullMode.mp mode)

theorem SpotState.armed_iff (state : SpotState) : state.armed = true ↔
    state ∈ [SpotState.connected, .ready, .startWait, .transfer, .stripWait, .strip, .held, .purge] := by
  cases state <;> decide

/-- The order that the free choices fix tells those the stop touches (log 6). -/
theorem tellsStop {s b : State} (shares : SharesFollowStates b) (spots : ∀ n, b.spot n = s.spot n)
    (stroke : b.proof.stroke = s.proof.stroke) (k : Nat) : TellsStop b (arrange k s.stopTold) where
  shares := shares
  once := by
    refine (perm_arrange ..).nodup_iff.mpr (List.nodup_append.mpr ⟨?_, by split <;> simp, fun x told y scheduler => ?_⟩)
    · exact (nodup_filter_allSpots _).map (Option.some_injective _)
    · obtain ⟨n, -, rfl⟩ := List.mem_map.mp told
      split at scheduler <;> simp at scheduler
      rw [scheduler]
      nofun
  spots n := by
    rw [State.mem_arrange, State.stopTold, spots n]
    split <;> simp [mem_allSpots]
  scheduler := by
    rw [State.mem_arrange, State.stopTold, stroke]
    cases s.proof.stroke <;> simp

/-- Settles O35: each of those told has its place in the order, and what the others do leaves it what the stop needs. -/
theorem sidingStopTripsArmedSpots : Obligations.SidingStopTripsArmedSpots := by
  unfold Obligations.SidingStopTripsArmedSpots
  intro s
  have active : exec .sidingStopActive s = execSidingStopActive s := rfl
  refine ⟨rfl, fun again => by rw [active, execSidingStopActive, if_pos again], fun clear shares => ?_⟩
  set b : State :=
    { s.setSiding { s.siding with stopActive := true } with choices := s.choices + s.stopTold.length }
  set told := arrange s.choices s.stopTold
  have tells : TellsStop b told :=
    tellsStop (s := s) (b := b) (shares.of_same rfl rfl fun _ => .refl _) (fun _ => rfl) rfl _
  set u := told.foldl State.takeStop b
  have taken : StopTaken b u told := .foldl tells.shares told
  obtain ⟨queue, push, pull, mode, nothing⟩ :=
    (tells.shares.foldl (fun _ x t => t.takeStop x) told).no_claims tells.unarmed
  obtain ⟨stroke, records⟩ := tells.proofs
  refine ⟨u, by rw [active, execSidingStopActive, if_neg (by simp [clear])]; rfl, taken.event.siding, fun n armed => ?_,
    fun n tripped calm => ?_, fun n other calm => ?_, stroke, records, fun k => tells.closes, queue, push, pull, mode,
    taken.position, taken.event.pending, taken.event.line, taken.event.manifest, taken.event.grades, taken.tickets,
    taken.link _ (coversStop_reach b)⟩
  · obtain ⟨v, awaits, station, trips⟩ := tells.trips ((SpotState.armed_iff _).mpr armed)
    refine ⟨trips.state, trips.phase, trips.holdReason, trips.stops, trips.settle, trips.purge, nothing n, trips.car,
      trips.deferred, trips.valveL, trips.valveV, _, trips.trip, rfl, fun c level present => ?_, fun left => ?_⟩
    · refine List.mem_filter.mpr ⟨by cases c <;> decide, decide_eq_true ?_⟩
      refine or_iff_not_imp_left.mpr fun other => ⟨level, ?_⟩
      exact State.levelPresent_mono (s := s) station awaits.metered level other (present.resolve_right other)
    · have metered : v.metered n = s.metered n := (awaits.timeLeft left).2
      refine List.filter_congr fun c _ =>
        decide_eq_decide.mpr (or_congr_right' fun other => and_congr_right fun level => ?_)
      exact ⟨State.levelPresent_mono station.symm (fun h => metered ▸ h) level other,
        State.levelPresent_mono station (fun h => metered ▸ h) level other⟩
  · obtain ⟨spot, meter⟩ := tells.adds tripped calm
    refine ⟨meter, spot.trans ?_⟩
    simp only [SpotRecord.addCauses, State.causeUnion_eq, List.mem_singleton]
    rfl
  · have unarmed : (s.spot n).state.armed = false ∧ (s.spot n).state ≠ .tripped := by
      simp only [List.mem_cons, List.not_mem_nil, or_false] at other
      rcases other with h | h | h | h <;> rw [h] <;> decide
    exact tells.untouched unarmed.1 unarmed.2 calm

end Sys2Proof.Machine
end

section
/-! SUPPORT. SIDING_CONFIG (chapter 10): the first check that fails, and the lapse of the proofs under a new interval. -/

namespace Sys2Proof.Machine

/-! ## SIDING_CONFIG (R195, R129) -/

/-- The checks of R195 in their order: whether each fails, with the place it answers. -/
def SidingConfig.checks (c : SidingConfig) : List (Bool × Nat) :=
  [(c.window < 500 || 2000 < c.window || c.window % 250 != 0, 1), (120 < c.startSpacing, 2),
    (c.changeoverTime < 5 || 120 < c.changeoverTime, 3), (c.proofInterval < 1 || 720 < c.proofInterval, 4),
    (72 < c.leadTime, 5), (c.proofStep < 10 || 600 < c.proofStep, 6), (c.proofInterval ≤ c.leadTime, 5)]

/-- The first check that fails gives the place: the head's where it fails, else that of the rest. -/
theorem find?_check_cons (fails : Bool) (place : Nat) (checks : List (Bool × Nat)) :
    (((fails, place) :: checks).find? fun x => x.1).map Prod.snd =
      if fails then some place else (checks.find? fun x => x.1).map Prod.snd := by
  cases fails <;> rfl

theorem SidingConfig.badPlace_eq (c : SidingConfig) : c.badPlace = (c.checks.find? fun x => x.1).map Prod.snd := by
  have window : (!(inRange 500 2000 c.window && c.window % 250 == 0)) =
      (c.window < 500 || 2000 < c.window || c.window % 250 != 0) := by
    rw [Bool.not_and, not_inRange]
    rfl
  have upTo (hi v : Nat) : (!inRange 0 hi v) = decide (hi < v) := by simp [not_inRange]
  have lead : (!decide (c.leadTime < c.proofInterval)) = decide (c.proofInterval ≤ c.leadTime) := by
    simp [← decide_not]
  simp only [checks, find?_check_cons, badPlace, window, upTo, not_inRange, lead, List.find?_nil, Option.map_none]

theorem SpotState.working_iff (state : SpotState) :
    state.working = true ↔ state ∈ [SpotState.startWait, .transfer, .stripWait, .strip, .held, .purge] := by
  cases state <;> decide

/-- A CURRENT record that has reached the interval becomes DUE; any other stays (R129). -/
theorem ProofRecord.lapse_eq (p : ProofRecord) (interval : Nat) : p.lapse interval =
    if p.state = .current ∧ interval ≤ p.elapsed then { p with state := .due } else p := by
  simp [lapse]

namespace State

variable (s : State) {body : List Byte}

theorem workingSpots_eq : s.workingSpots = allSpots.filter fun n =>
    (s.spot n).state ∈ [SpotState.startWait, .transfer, .stripWait, .strip, .held, .purge] :=
  List.filter_congr fun n _ => by rw [Bool.eq_iff_iff, decide_eq_true_iff, SpotState.working_iff]

theorem proofRecord_lapseAll (interval : Nat) (v : ValveIndex) :
    (s.lapseAll interval).proofRecord v = (s.proofRecord v).lapse interval := by
  simp [proofRecord, lapseAll]

/-- The siding unit and the proof records under a new siding configuration (R195, R129). -/
def underConfig (c : SidingConfig) : State :=
  let t := s.setSiding { s.siding with config := c }
  if c.proofInterval == s.siding.config.proofInterval then t else t.lapseAll c.proofInterval

theorem underConfig_eq (c : SidingConfig) : s.underConfig c = { s with
    siding := { s.siding with config := c }, proof := { s.proof with records := (s.underConfig c).proof.records } } := by
  unfold underConfig
  dsimp only
  split <;> rfl

theorem proofRecord_underConfig (c : SidingConfig) (v : ValveIndex) : (s.underConfig c).proofRecord v =
    if c.proofInterval ≠ s.siding.config.proofInterval ∧ (s.proofRecord v).state = .current
        ∧ c.proofInterval ≤ (s.proofRecord v).elapsed then { s.proofRecord v with state := .due }
    else s.proofRecord v := by
  unfold underConfig
  by_cases same : c.proofInterval = s.siding.config.proofInterval
  · simp [same]
  · simp [same, proofRecord_lapseAll, ProofRecord.lapse_eq]

theorem configureSiding_failed {f : Bool × Nat} (failed : (readSidingConfig body).checks.find? (fun x => x.1) = some f) :
    s.configureSiding body = s.refuse .range [byte1 f.2] := by
  simp only [configureSiding, SidingConfig.badPlace_eq, failed, Option.map_some]

theorem configureSiding_passed (passed : (readSidingConfig body).checks.find? (fun x => x.1) = none) :
    s.configureSiding body = if s.workingSpots = [] then ⟨.ok, [], s.underConfig (readSidingConfig body)⟩
      else s.refuse .busy [spotSetByte s.workingSpots] := by
  simp only [configureSiding, SidingConfig.badPlace_eq, passed, Option.map_none]
  cases s.workingSpots <;> rfl

end State

/-- Settles O30: the checks come to the first that fails, and where none does the spots at work are asked. -/
theorem sidingConfigJudgesInOrder : Obligations.SidingConfigJudgesInOrder := by
  unfold Obligations.SidingConfigJudgesInOrder
  intro tag body s len c failed working
  refine ⟨fun f first => State.exec_owned rfl len (s.configureSiding_failed first), fun passed => ?_⟩
  have verdict := s.configureSiding_passed (body := body) passed
  rw [s.workingSpots_eq] at verdict
  exact ⟨fun busy => State.exec_owned rfl len (verdict.trans (if_neg busy)), fun free =>
    ⟨s.underConfig c, State.exec_owned rfl len (verdict.trans (if_pos free)), s.underConfig_eq c,
      s.proofRecord_underConfig c⟩⟩

end Sys2Proof.Machine
end

section
/-! SUPPORT. The timers of the proof scheduler, and the ends of a stroke (chapter 7). -/

namespace Sys2Proof.Machine

/-! ## The hour timer and the step timer (R128, R129, R139, R140) -/

namespace State

variable (s : State)

theorem eligible_iff (v : ValveIndex) : s.eligible v = true ↔ (s.proofRecord v).state ≠ .current
    ∨ s.siding.config.proofInterval ≤ (s.proofRecord v).elapsed + s.siding.config.leadTime := by
  have notCurrent (p : ProofState) : p = .due ∨ p = .failed ↔ p ≠ .current := by cases p <;> decide
  simp [eligible, notCurrent]

/-- The conditions of R132, one by one. -/
theorem mayStroke_iff (v : ValveIndex) : s.mayStroke v = true ↔ (s.spot (valveSpot v)).config.present = true
    ∧ (s.spot (valveSpot v)).state = .vacant ∧ s.proof.stroke = none ∧ (s.spot (valveSpot v)).valveL = .closed
    ∧ (s.spot (valveSpot v)).valveV = .closed ∧ (s.station (valveSpot v)).status = .online
    ∧ s.siding.stopActive = false := by
  simp [mayStroke, and_assoc]

/-- The proof scheduler after an hour: every record is older, and has lapsed where it reached the interval. -/
def afterHour : State :=
  { s with proof := { s.proof with
      hourTimer := .running 3600000
      records := Vector.ofFn fun v : ValveIndex => (s.proofRecord v).age.lapse s.siding.config.proofInterval } }

theorem proofRecord_afterHour (v : ValveIndex) : s.afterHour.proofRecord v =
    { s.proofRecord v with
      elapsed := min ((s.proofRecord v).elapsed + 1) 65535
      state := if (s.proofRecord v).state = .current
          ∧ s.siding.config.proofInterval ≤ min ((s.proofRecord v).elapsed + 1) 65535 then .due
        else (s.proofRecord v).state } := by
  have aged : s.afterHour.proofRecord v = (s.proofRecord v).age.lapse s.siding.config.proofInterval :=
    Vector.getElem_ofFn ..
  rw [aged, ProofRecord.lapse_eq, ProofRecord.age]
  dsimp only
  split <;> rfl

end State

/-- Settles O42: each timer does what its rule says when it runs, and nothing when it is stopped. -/
theorem proofTimersAct : Obligations.ProofTimersAct := by
  unfold Obligations.ProofTimersAct
  intro s v n p moved eligible may
  have hour : exec .hourTimerExpiry s = execHourTimerExpiry s := rfl
  have step : exec .proofStepTimerExpiry s = execProofStepTimerExpiry s := rfl
  refine ⟨fun stopped => ?_, fun runs => ⟨s.afterHour, ?_, rfl, s.proofRecord_afterHour⟩, fun stopped => ?_, fun runs => ?_⟩
  · rw [hour, execHourTimerExpiry, if_neg (Timer.not_running_iff.mpr stopped)]
  · rw [hour, execHourTimerExpiry, if_pos (Timer.isRunning_iff.mpr runs)]
    rfl
  · rw [step, execProofStepTimerExpiry, if_neg (Timer.not_running_iff.mpr stopped)]
  · have starts : (s.eligible v && s.mayStroke v) = true ↔ eligible ∧ may := by
      rw [Bool.and_eq_true, s.eligible_iff, s.mayStroke_iff]
    have steps : exec .proofStepTimerExpiry s =
        .next (if s.eligible v && s.mayStroke v then moved.startStroke v .cursor else moved) := by
      rw [step, execProofStepTimerExpiry, if_pos (Timer.isRunning_iff.mpr runs)]
      rfl
    refine ⟨fun go => ⟨_, ?_, moved.starts_startStroke v .cursor⟩, fun stay => ?_⟩
    · rw [steps, if_pos (starts.mpr go)]
    · rw [steps, if_neg (mt starts.mp stay)]

/-! ## The ends of a stroke (R134 to R137) -/

theorem ProofRecord.judge_eq (p : ProofRecord) (limit time : Nat) : p.judge limit time =
    if time ≤ limit then ⟨.current, 0, some .pass, some time, none⟩
    else if time ≤ 2 * limit then ⟨.current, 0, some .slow, some time, none⟩
    else { p with state := .failed, lastResult := some .fail, lastTravel := some time, faultSource := some .stroke } := rfl

namespace State

variable {s b : State} {n : SpotNo} {side : ValveSide} {f : InFlight} {r : LinkReply} {k : Stroke}

/-- A reply that is DONE ends the stroke its travel time is judged for (R135, R137). -/
theorem ends_judgeStroke (s : State) (k : Stroke) (time : Nat) :
    EndsStroke s (s.judgeStroke k time) k ((s.proofRecord k.valve).judge k.limit time) (2 * k.limit < time) := by
  have ends := ends_endStroke s k ((s.proofRecord k.valve).judge k.limit time) (2 * k.limit < time)
  rwa [decide_eq_true_eq] at ends

/-- A reply to STROKE that is not DONE sends it again, and ends no stroke (R151). -/
theorem strokeReplied_notDone (notDone : r.done = false) : b.strokeReplied s n f r =
    ((b.onStation n (·.heard r)).returnEntry f f.entry.txn notDoneHoldOff).takeStationEvent s n [] none := by
  unfold strokeReplied sendAgainUnlessDone
  simp only [notDone, Bool.false_and, Bool.false_eq_true, if_false]
  split <;> rfl

variable {m : State}

/-- A DONE is taken by the sequencer before the stroke is judged, and judges none where its STROKE was withdrawn or none is
in flight on its valve (R137, log 12). -/
theorem strokeReplied_disregarded (done : r.done = true)
    (taken : (b.onStation n (·.heard r)).takeStationEvent s n [] none = m) (txn : f.entry.txn = .stroke side)
    (other : f.mark ≠ .live ∨ ∀ k, m.proof.stroke = some k → k.valve ≠ valveIndex n side) :
    b.strokeReplied s n f r = m := by
  unfold strokeReplied sendAgainUnlessDone
  simp only [done, if_true, taken]
  cases flying : m.proof.stroke with
  | none => rfl
  | some k =>
    refine if_neg fun judged => ?_
    simp only [txn, Txn.strokes, Bool.true_and, Bool.and_eq_true, beq_iff_eq] at judged
    exact other.elim (· judged.1) fun h => h k flying judged.2.symm

/-- The DONE of a live STROKE judges the stroke in flight on its valve (R134, R135). -/
theorem strokeReplied_judged (done : r.done = true)
    (taken : (b.onStation n (·.heard r)).takeStationEvent s n [] none = m) (txn : f.entry.txn = .stroke side)
    (live : f.mark = .live) (flying : m.proof.stroke = some k) (valve : k.valve = valveIndex n side) :
    b.strokeReplied s n f r = m.judgeStroke k (num2 r.data 0) := by
  unfold strokeReplied sendAgainUnlessDone
  simp only [done, if_true, taken, flying]
  exact if_pos (by simp [txn, Txn.strokes, live, valve])

end State

/-- Settles O43: the timer fails the stroke; a reply is taken by the sequencer, and its DONE judges the stroke it is for. -/
theorem strokesEnd : Obligations.StrokesEnd := by
  unfold Obligations.StrokesEnd
  intro s
  have expiry : exec .strokeTimerExpiry s = execStrokeTimerExpiry s := rfl
  refine ⟨fun rests => ?_, fun k flying => ⟨fun stopped => ?_, fun runs => ?_⟩, ?_⟩
  · rw [expiry, execStrokeTimerExpiry, rests]
  · rw [expiry, execStrokeTimerExpiry, flying]
    exact if_neg (Timer.not_running_iff.mpr stopped)
  · have ends := s.ends_endStroke k (s.proofRecord k.valve).timeOut true
    rw [eq_self_iff_true] at ends
    refine ⟨_, ?_, ends⟩
    rw [expiry, execStrokeTimerExpiry, flying]
    exact if_pos (Timer.isRunning_iff.mpr runs)
  · intro n side flags data f awaits len present reply heard brought
    let r : LinkReply := ⟨true, flags.getLsbD 1, flags.getLsbD 2, data⟩
    have replied : exec reply s = .next (s.freeLink.strokeReplied s n f r) :=
      congrArg _ (State.takeReply_present awaits flags data State.strokeReplied (by rw [len]; rfl) present)
    refine ⟨fun notDone => ⟨_, ?_, State.takes_reply_again s heard f n _ _⟩, fun done => ?_⟩
    · rw [replied, State.strokeReplied_notDone notDone, State.returnEntry_eq awaits.station, awaits.txn]
      rfl
    · set m := heard.takeStationEvent s n [] none
      have taken : (s.freeLink.onStation n (·.heard r)).takeStationEvent s n [] none = m := rfl
      have proof : m.proof = s.proof := (Course.takeStationEvent ..).proof
      have stroke : m.proof.stroke = s.proof.stroke := by rw [proof]
      have record (v : ValveIndex) : m.proofRecord v = s.proofRecord v := by rw [State.proofRecord, proof]; rfl
      refine ⟨m, State.takes_reply s heard n, fun other => ?_, fun k live flying valve => ?_⟩
      · have disregarded := other.imp_left fun withdrawn => show f.mark ≠ .live by rw [withdrawn]; decide
        rw [← stroke] at disregarded
        rw [replied, State.strokeReplied_disregarded done taken awaits.txn disregarded]
      · intro time
        have ends := m.ends_judgeStroke k time
        rw [record, ProofRecord.judge_eq] at ends
        refine ⟨_, ?_, ends⟩
        rw [replied, State.strokeReplied_judged done taken awaits.txn live (stroke.trans flying) valve]

end Sys2Proof.Machine
end

section
/-! SUPPORT. RESTART (chapter 10): the Restart values of every block, and what the link scheduler queues after them. -/

namespace Sys2Proof.Machine

/-! ## What refuses RESTART (R196) -/

theorem SpotState.beforeTicket_iff (state : SpotState) : state.beforeTicket = true ↔
    state ∈ [SpotState.startWait, .transfer, .stripWait, .strip, .held, .purge, .tripped] := by
  cases state <;> decide

namespace State

variable (s : State)

theorem restartBlockers_eq : s.restartBlockers = allSpots.filter fun n =>
    (s.spot n).state ∈ [SpotState.startWait, .transfer, .stripWait, .strip, .held, .purge, .tripped]
      ∧ (0 < (s.meter n).windowsCounted ∨ (s.spot n).endReason ≠ none) :=
  List.filter_congr fun n _ => by
    rw [Bool.eq_iff_iff, decide_eq_true_iff, Bool.and_eq_true, SpotState.beforeTicket_iff, metered_iff]

theorem takeRestart_refused (busy : s.tickets.queue ≠ [] ∨ s.restartBlockers ≠ []) :
    s.takeRestart = s.refuse .busy [byte1 s.tickets.queue.length, spotSetByte s.restartBlockers] :=
  if_pos (by simpa using busy)

theorem takeRestart_accepted (queue : s.tickets.queue = []) (blockers : s.restartBlockers = []) :
    s.takeRestart = ⟨.ok, [], s.restart⟩ :=
  if_neg (by simp [queue, blockers])

/-! ## The abort of a stroke in flight (R138) -/

theorem config_abortStroke (drive : Bool) (n : SpotNo) :
    ((s.abortStroke drive).spot n).config = (s.spot n).config := by
  obtain same | ⟨side, closed⟩ := s.spot_abortStroke drive n
  · rw [same]
  · rw [closed]
    cases side <;> rfl

theorem frame_abortStroke (drive : Bool) : ∃ n, StrokeFrame s (s.abortStroke drive) n := by
  cases flying : s.proof.stroke with
  | none =>
    rw [abortStroke_none flying]
    exact ⟨0, .refl _, rfl, rfl, rfl, rfl, .refl .., fun _ _ => rfl⟩
  | some k => exact ⟨_, (ends_abortStroke flying drive).frame⟩

theorem proof_abortStroke (drive : Bool) : (s.abortStroke drive).proof =
    { s.proof with stroke := none, records := (s.abortStroke drive).proof.records } := by
  cases flying : s.proof.stroke with
  | none =>
    rw [abortStroke_none flying]
    simp [← flying]
  | some k => exact (ends_abortStroke flying drive).proof

end State

/-- A transaction in flight that may be marked withdrawn before it is dropped is dropped all the same (R165). -/
theorem LinkOf.dropped {l m : Link} {touched : List SpotNo} (h : LinkOf l m touched) :
    m.inFlight.map (fun f => { f with mark := .dropped }) = l.inFlight.map fun f => { f with mark := .dropped } := by
  obtain same | ⟨f, n, flying, -, -, withdrawn⟩ := h.flight
  · rw [same]
  · rw [flying, withdrawn]
    rfl

/-! ## The INITIALIZEs and the poll (R162, R165) -/

theorem Link.join_new {l : Link} {e : LinkEntry} (new : l.hasPending e.station e.txn.kind = false) :
    l.join e = { l with entries := l.entries ++ [e] } :=
  if_neg (by simp [new])

namespace State

variable (s : State)

/-- The machine with another pending list. -/
def withEntries (entries : List LinkEntry) : State := s.setLink { s.link with entries := entries }

/-- Stations that have no INITIALIZE pending get one each, in the order they are taken, but for those ABSENT (R149, R165). -/
theorem foldl_queueInit {told : List SpotNo} (once : told.Nodup)
    (new : ∀ n ∈ told, s.link.hasPending (some n) .initStation = false) :
    told.foldl queueInit s = s.withEntries (s.link.entries ++
      (told.filter fun n => (s.station n).status ≠ .absent).map fun n => newEntry n (.initStation false)) := by
  induction told generalizing s with
  | nil => simp [withEntries, setLink]
  | cons n told ih =>
    obtain ⟨out, once⟩ := List.nodup_cons.mp once
    rw [List.foldl_cons]
    by_cases absent : (s.station n).status = .absent
    · have same : s.queueInit n = s := if_pos (by rw [absent]; rfl)
      rw [same, ih s once fun k mem => new k (List.mem_cons_of_mem _ mem), List.filter_cons_of_neg (by simpa using absent)]
    · have joins : s.queueInit n = s.withEntries (s.link.entries ++ [newEntry n (.initStation false)]) := by
        rw [queueInit, if_neg (by simpa using absent), join, Link.join_new (new n List.mem_cons_self)]
        rfl
      have others : ∀ k ∈ told, (s.queueInit n).link.hasPending (some k) .initStation = false := fun k mem => by
        have ne : k ≠ n := fun h => out (h ▸ mem)
        rw [← new k (List.mem_cons_of_mem _ mem), queueInit, if_neg (by simpa using absent)]
        exact Link.hasPending_join_ne _ _ _ _ fun same => ne (Option.some.inj same.1).symm
      rw [List.filter_cons_of_pos (by simpa using absent), List.map_cons, List.append_cons, ih _ once others, joins]
      rfl

/-- The poll joins the tail where it is wanted: none is pending then (R162). -/
theorem judgePoll_eq : s.judgePoll = s.withEntries (s.link.entries ++
    if s.link.pollWanted then [⟨none, .attentionPoll, .stopped⟩] else []) := by
  unfold judgePoll
  split
  · rename_i wanted
    have new : s.link.hasPending none .attentionPoll = false := by
      simp only [Link.pollWanted, Bool.and_eq_true, Bool.not_eq_true'] at wanted
      tauto
    rw [join, Link.join_new new]
    rfl
  · simp [withEntries, setLink]

end State

/-- Whether a poll is wanted where nothing but INITIALIZEs is pending and no hold-off runs (R162). -/
theorem Link.pollWanted_iff {l : Link} (inits : ∀ e ∈ l.entries, e.txn = .initStation false)
    (stopped : l.pollHoldOff = .stopped) : l.pollWanted = true ↔ l.attentionLine = true ∧ ∀ f, l.inFlight = some f →
      ¬(f.entry.station = none ∧ f.entry.txn = .attentionPoll) ∧ f.entry.txn ≠ .clear
        ∧ ∀ m, f.entry.txn = .sampleRead m → m.attention = false := by
  have noPoll : l.hasPending none .attentionPoll = false := by
    simp only [hasPending, List.any_eq_false]
    exact fun e mem => by simp [LinkEntry.isPair, inits e mem, Txn.kind]
  have noHold : (l.entries.any fun e => e.txn.holdsPoll) = false :=
    List.any_eq_false.mpr fun e mem => by simp [inits e mem, Txn.holdsPoll]
  have poll (e : LinkEntry) : e.isPair none .attentionPoll = false ↔ ¬(e.station = none ∧ e.txn = .attentionPoll) := by
    rw [← Bool.not_eq_true, LinkEntry.isPair, Bool.and_eq_true, beq_iff_eq, beq_iff_eq]
    cases e.txn <;> simp [Txn.kind]
  have holds (t : Txn) : t.holdsPoll = false ↔ t ≠ .clear ∧ ∀ m, t = .sampleRead m → m.attention = false := by
    cases t <;> simp [Txn.holdsPoll]
  simp only [pollWanted, noPoll, noHold, stopped, inFlightIs]
  cases l.inFlight with
  | none => simp [Timer.isRunning]
  | some f => simp [Timer.isRunning, poll, holds, and_assoc]

/-! ## The Restart values (R197) -/

namespace State

variable (s : State)

theorem spot_restartBlocks (n : SpotNo) : s.restartBlocks.spot n = .fresh (s.spot n).config := by
  rw [← s.config_abortStroke false]
  simp [spot, restartBlocks]

theorem meter_restartBlocks (n : SpotNo) : s.restartBlocks.meter n = .fresh := by
  simp [meter, restartBlocks]

theorem station_restartBlocks (n : SpotNo) :
    s.restartBlocks.station n = (s.station n).onRestart (s.spot n).config.present := by
  obtain ⟨k, frame⟩ := s.frame_abortStroke false
  have record : (s.abortStroke false).station n = s.station n := by rw [station, station, frame.link.stations]
  rw [← record, ← s.config_abortStroke false]
  simp [station, spot, restartBlocks, Link.onRestart]

/-- The INITIALIZEs of the present stations (R165). -/
def presentInits : List LinkEntry :=
  (allSpots.filter fun n => (s.spot n).config.present).map fun n => newEntry n (.initStation false)

/-- The pending list after RESTART: the INITIALIZEs, then a poll where R162 wants one. -/
def restartEntries : List LinkEntry :=
  s.presentInits ++ if (s.restartBlocks.withEntries s.presentInits).link.pollWanted then
    [⟨none, .attentionPoll, .stopped⟩] else []

/-- RESTART: the Restart values, and the pending list. -/
theorem restart_eq : s.restart = s.restartBlocks.withEntries s.restartEntries := by
  have inits : allSpots.foldl queueInit s.restartBlocks = s.restartBlocks.withEntries s.presentInits := by
    have present : (allSpots.filter fun n => (s.restartBlocks.station n).status ≠ .absent) =
        allSpots.filter fun n => (s.spot n).config.present := List.filter_congr fun n _ => by
      rw [station_restartBlocks, Station.onRestart]
      cases (s.spot n).config.present <;> rfl
    rw [foldl_queueInit _ (by decide) fun n _ => rfl, present]
    rfl
  rw [restart, inits, judgePoll_eq]
  rfl

theorem pollWanted_restart : (s.restartBlocks.withEntries s.presentInits).link.pollWanted = true ↔
    s.link.attentionLine = true ∧ ∀ f, s.link.inFlight = some f →
      ¬(f.entry.station = none ∧ f.entry.txn = .attentionPoll) ∧ f.entry.txn ≠ .clear
        ∧ ∀ m, f.entry.txn = .sampleRead m → m.attention = false := by
  obtain ⟨k, frame⟩ := s.frame_abortStroke false
  have line : s.restartBlocks.link.attentionLine = s.link.attentionLine := frame.link.attentionLine
  have flight : s.restartBlocks.link.inFlight = s.link.inFlight.map fun f => { f with mark := .dropped } :=
    frame.link.dropped
  have inits : ∀ e ∈ s.presentInits, e.txn = .initStation false := fun e mem => by
    obtain ⟨n, -, rfl⟩ := List.mem_map.mp mem
    rfl
  rw [Link.pollWanted_iff inits rfl]
  simp only [withEntries, link_setLink, line, flight, Option.map_eq_some_iff, forall_exists_index, and_imp,
    forall_apply_eq_imp_iff₂]

end State

/-- Settles O34: a ticket queued or a metered car refuses it; else each block has its Restart values, a stroke in flight
having been ABORTED first. -/
theorem restartTakesRestartValues : Obligations.RestartTakesRestartValues := by
  unfold Obligations.RestartTakesRestartValues
  intro tag s blockers
  have waiting : s.restartBlockers = blockers := s.restartBlockers_eq
  refine ⟨fun busy => ?_, fun queue free => ⟨s.restart, ?_, ?_⟩⟩
  · have verdict := s.takeRestart_refused (waiting ▸ busy)
    rw [waiting] at verdict
    exact State.exec_owned (owner := State.takeRestart) rfl rfl verdict
  · exact State.exec_owned (owner := State.takeRestart) rfl rfl (s.takeRestart_accepted queue (waiting.trans free))
  · obtain ⟨k, frame⟩ := s.frame_abortStroke false
    rw [s.restart_eq]
    refine ⟨rfl, frame.event.grades, frame.tickets, frame.choices, frame.event.pending, frame.event.line, ?_, ?_,
      fun n => ⟨s.spot_restartBlocks n, s.meter_restartBlocks n, s.station_restartBlocks n⟩, ?_,
      s.proofRecord_abortStroke false, frame.link.mask, frame.link.attentionLine, rfl,
      frame.link.dropped, _, rfl, ?_, ?_⟩
    · exact congrArg (fun d : Siding => { d with mode := .shut }) frame.event.siding
    · exact congrArg (fun c : Compressor => Compressor.fresh c.position) frame.comp
    · have blocks : (s.restartBlocks.withEntries s.restartEntries).proof =
          (s.abortStroke false).proof.onRestart s.siding.config.proofStep :=
        congrArg (fun d : Siding => (s.abortStroke false).proof.onRestart d.config.proofStep) frame.event.siding
      rw [blocks, s.proof_abortStroke]
      rfl
    · exact (ite_eq_or_eq ..).symm
    · rw [← s.pollWanted_restart]
      simp

end Sys2Proof.Machine
end

section
/-! SUPPORT. The pending list of the spot link: what is selected on a free link, what the timers of the link scheduler do,
how a transaction joins, and when a poll is queued (R148 to R150, R154, R162). -/

namespace Sys2Proof.Machine

/-! ## Selection (R150) -/

/-- Settles O46: the entry the rules name is the one that is selected, and it alone leaves the list. -/
theorem sendingSelectsByClass : Obligations.SendingSelectsByClass := by
  unfold Obligations.SendingSelectsByClass
  intro s l rank passed
  have sends : exec .transactionSend s = .next (s.setLink l.send) := rfl
  rw [sends]
  refine ⟨fun busy => ?_, fun free => ⟨fun all => ?_, fun before e after place chosen earlier later => ?_⟩⟩
  · rw [Link.send_of_none (.inl busy)]
    rfl
  · rw [Link.send_of_none (.inr all)]
    rfl
  · rw [Link.send_of_selects free ⟨place, chosen, earlier, later⟩]
    rfl

/-! ## The timers of the link scheduler (R150, R154, R162) -/

theorem Link.heldOff_iff {l : Link} {n : SpotNo} {kind : LinkKind} : l.heldOff n kind = true ↔
    ∃ e ∈ l.entries, (e.station == some n && e.txn.kind == kind) = true ∧ e.holdOff ≠ .stopped := by
  simp only [heldOff, List.any_eq_true, Bool.and_eq_true, Timer.isRunning_iff, LinkEntry.isPair]

/-- Settles O44: each timer does what its rule says when it runs, and nothing when it is stopped. -/
theorem linkTimersAct : Obligations.LinkTimersAct := by
  unfold Obligations.LinkTimersAct
  intro s
  refine ⟨?holdOff, fun stopped => ?pollStopped, fun running => ?pollRuns, fun n => ⟨fun stopped => ?stopped, ?recovers⟩⟩
  case holdOff =>
    intro n kind held ended
    refine ⟨fun unheld => if_neg fun runs => ?_, fun runs => ?_⟩
    · obtain ⟨e, mem, pair, runs⟩ := Link.heldOff_iff.mp runs
      exact runs (unheld e mem pair)
    · have sends : exec (.holdOffExpiry n kind) s = .next (s.setLink ended.send) := if_pos (Link.heldOff_iff.mpr runs)
      rw [sends]
      refine ⟨fun nothing => ?_, fun free before e after selects => ?_, _, rfl⟩
      · rw [Link.send_of_none (l := ended) nothing]
        rfl
      · rw [Link.send_of_selects (l := ended) free selects]
        rfl
  case pollStopped => exact if_neg (Timer.not_running_iff.mpr stopped)
  case pollRuns => exact if_pos (Timer.isRunning_iff.mpr running)
  case stopped => exact if_neg (Timer.not_running_iff.mpr stopped)
  case recovers =>
    intro running b
    have queues : exec (.recoveryTimerExpiry n) s = .next (b.queueInit n) := if_pos (Timer.isRunning_iff.mpr running)
    have status : (b.station n).status = (s.station n).status := by simp [b]
    rw [queues, State.queueInit, status]
    exact congrArg _ (if_congr beq_iff_eq rfl rfl)

/-! ## Joining the pending list (R149) -/

/-- An entry of a pair that stands in the list once is merged into the one there, which keeps its place. -/
theorem Link.join_pending {l : Link} {e p : LinkEntry} {before after : List LinkEntry}
    (place : l.entries = before ++ p :: after) (pair : p.samePair e = true)
    (others : ∀ d ∈ before ++ after, d.samePair e = false) :
    l.join e = { l with entries := before ++ p.absorb e :: after } := by
  have pending : l.hasPending e.station e.txn.kind = true :=
    List.any_eq_true.mpr ⟨p, by simp [place], pair⟩
  have kept {part : List LinkEntry} (sub : part ⊆ before ++ after) :
      (part.map fun d => if d.isPair e.station e.txn.kind then d.absorb e else d) = part := by
    conv_rhs => rw [← List.map_id part]
    exact List.map_congr_left fun d mem => if_neg (Bool.eq_false_iff.mp (others d (sub mem)))
  have here : p.isPair e.station e.txn.kind = true := pair
  rw [join, if_pos pending, place, List.map_append, List.map_cons, if_pos here, kept (List.subset_append_left ..),
    kept (List.subset_append_right ..)]

/-- Every kind but the three that carry data of their own absorbs one of its pair (R149). -/
theorem Txn.merge_absorbs {pending added : Txn} (plain : added.kind ∉ [LinkKind.sampleRead, .valveOpen, .countAck]) :
    pending.merge added = pending := by
  cases added with
  | sampleRead | valveOpen | countAck => simp [Txn.kind] at plain
  | _ => cases pending <;> rfl

/-- A COUNT_ACK takes the newer data (log 24). -/
theorem Txn.merge_countAck {pending : Txn} {seq : Byte} {amount : Nat} (pair : pending.kind = .countAck) :
    pending.merge (.countAck seq amount) = .countAck seq amount := by
  cases pending with
  | countAck => rfl
  | _ => cases pair

theorem StationStatus.takesRequests_iff {status : StationStatus} :
    status.takesRequests = true ↔ status ≠ .absent ∧ status ≠ .lost := by
  cases status <;> decide

/-- Two states of the link scheduler that differ in the list and the flight alone are equal but for these. -/
theorem LinkList.eq {l m : Link} (h : LinkList l m) : m = { l with entries := m.entries, inFlight := m.inFlight } := by
  rw [← h.stations, ← h.mask, ← h.pollHoldOff, ← h.attentionLine]

/-- A transaction in flight that is live and of the pair is marked withdrawn, and no other is (R149). -/
theorem Link.inFlight_markWithdrawn {l : Link} {n : SpotNo} {kind : LinkKind} :
    (∀ f, l.inFlight = some f → f.entry.station = some n → f.entry.txn.kind = kind → f.mark = .live →
        (l.markWithdrawn n kind).inFlight = some ⟨f.entry, .withdrawn⟩)
      ∧ ((∀ f, l.inFlight = some f → ¬(f.entry.station = some n ∧ f.entry.txn.kind = kind ∧ f.mark = .live)) →
        (l.markWithdrawn n kind).inFlight = l.inFlight) := by
  unfold markWithdrawn
  refine ⟨fun f flying station of live => ?_, fun other => ?_⟩
  · simp [flying, LinkEntry.isPair, station, of, live]
  · cases flying : l.inFlight with
    | none => rfl
    | some f =>
      have : ¬(f.entry.isPair (some n) kind && f.mark == .live) = true := by
        simpa [LinkEntry.isPair, and_assoc] using other f flying
      rw [Option.map_some, if_neg this]

/-- Settles O45: an entry new of its pair goes to the tail, another is merged; and a request is one or the other. -/
theorem requestsJoinThePendingList : Obligations.RequestsJoinThePendingList := by
  unfold Obligations.RequestsJoinThePendingList
  intro s
  refine ⟨fun e new => ?_, fun e p before after place pair others => ⟨p.txn.merge e.txn, ?_, ?_, ?_, ?_, ?_⟩,
    fun n t => ⟨fun deaf => ?_, fun present reached => ?_⟩⟩
  · rw [State.join, Link.join_new new]
    rfl
  · rw [State.join, Link.join_pending place pair others, LinkEntry.absorb, Timer.ite_isRunning]
    rfl
  · rintro a b read added
    rw [read, added]
    rfl
  · rintro a b opens added
    rw [opens, added]
    rfl
  · intro seq amount added
    rw [LinkEntry.samePair, added] at pair
    rw [added, Txn.merge_countAck (beq_iff_eq.mp (Bool.and_eq_true_iff.mp pair).2)]
  · exact Txn.merge_absorbs
  · have takes : ¬(s.station n).status.takesRequests = true := fun takes =>
      deaf.elim (StationStatus.takesRequests_iff.mp takes).1 (StationStatus.takesRequests_iff.mp takes).2
    exact ⟨if_neg takes, if_neg takes⟩
  · have takes : (s.station n).status.takesRequests = true := StationStatus.takesRequests_iff.mpr ⟨present, reached⟩
    have flight : ((s.link.join (newEntry n .close)).withdraw n .valveOpen).inFlight = s.link.inFlight :=
      Link.inFlight_join ..
    have marked := Link.inFlight_markWithdrawn (l := (s.link.join (newEntry n .close)).withdraw n .valveOpen) (n := n)
      (kind := .valveOpen)
    rw [flight] at marked
    refine ⟨if_pos takes, _, _, ?_, rfl, marked⟩
    rw [State.requestClose, if_pos takes]
    exact congrArg s.setLink (((LinkList.join ..).trans (.withdraw ..)).trans (.markWithdrawn ..)).eq

/-! ## The judgement of R162 -/

theorem Txn.holdsPoll_iff {t : Txn} :
    t.holdsPoll = true ↔ t = .clear ∨ ∃ m, t = .sampleRead m ∧ m.attention = true := by
  cases t <;> simp [Txn.holdsPoll]

theorem LinkEntry.isPair_poll {e : LinkEntry} :
    e.isPair none .attentionPoll = true ↔ e.station = none ∧ e.txn = .attentionPoll := by
  cases h : e.txn <;> simp [LinkEntry.isPair, Txn.kind, h]

/-- What R162 asks of each entry and of the transaction in flight: neither a poll nor one that holds a poll back. -/
theorem Link.pollWanted_iff_clear {l : Link} : l.pollWanted = true ↔ l.attentionLine = true ∧ l.pollHoldOff = .stopped
    ∧ (∀ e ∈ l.entries, ¬e.txn.holdsPoll = true ∧ ¬e.isPair none .attentionPoll = true)
    ∧ ∀ f, l.inFlight = some f → ¬f.entry.txn.holdsPoll = true ∧ ¬f.entry.isPair none .attentionPoll = true := by
  have stopped : l.pollHoldOff.isRunning = false ↔ l.pollHoldOff = .stopped :=
    Bool.eq_false_iff.trans Timer.not_running_iff
  simp only [pollWanted, hasPending, inFlightIs, Bool.and_eq_true, Bool.not_eq_true', List.any_eq_false,
    Option.any_eq_false, stopped, forall_and, Bool.not_eq_true]
  tauto

/-- Settles O53: the four conditions of R162 are those the scheduler judges, and the poll joins the tail. -/
theorem attentionLineQueuesAPoll : Obligations.AttentionLineQueuesAPoll := by
  unfold Obligations.AttentionLineQueuesAPoll
  intro s
  refine ⟨fun level => ?_, ?_⟩
  · rfl
  · intro stands poll wanted
    have judged : s.link.pollWanted = true ↔ wanted := by
      simp only [Link.pollWanted_iff_clear, Txn.holdsPoll_iff, LinkEntry.isPair_poll]
      rfl
    rw [State.judgePoll_eq]
    refine ⟨fun yes => ?_, fun no => ?_⟩
    · rw [if_pos (judged.mpr yes)]
      rfl
    · rw [if_neg (mt judged.mp no), List.append_nil]
      rfl

end Sys2Proof.Machine
end

section
/-! SUPPORT. What the completions on the spot link leave alone: the parts of a completion as courses of a spot, and the whole of
each as an event (R144, R151, R156, R162). -/

namespace Sys2Proof.Machine

/-! ## The parts of a completion -/

namespace Course

theorem returnEntry (s : State) (f : InFlight) (txn : Txn) (holdOff : Timer) : Course s (s.returnEntry f txn holdOff) :=
  ite (join ..) (refl _)

theorem sendAgainUnlessDone (s : State) (f : InFlight) (r : LinkReply) : Course s (s.sendAgainUnlessDone f r) :=
  ite (refl _) (returnEntry ..)

theorem returnRead (s : State) (f : InFlight) (m : Markings) : Course s (s.returnRead f m) :=
  ite (refl _) (returnEntry ..)

theorem dealAgain (s : State) (n : SpotNo) (f : InFlight) : Course s (s.dealAgain n f).1 := by
  unfold State.dealAgain
  split
  · exact (returnRead ..).trans (missWindowIf ..)
  · exact returnEntry ..

theorem meterReply (s : State) (n : SpotNo) (m : Markings) (x : Sample) (p : Nat) : Course s (s.meterReply n m x p).1 := by
  rw [State.meterReply_eq]
  exact setMeter ..

end Course

/-! ## Whole completions -/

namespace Event

variable (s old : State) (n : SpotNo) (f : InFlight) (r : LinkReply)

theorem freeLink : Event s s.freeLink := setLink ..

theorem missed : Event s (s.missed old n f) :=
  ite ((onStation ..).trans (dispose ..)) (ite (becomeLost ..)
    ((onStation ..).trans ((Course.dealAgain ..).trans (.takeStationEvent ..)).event))

theorem notInitialized : Event s (s.notInitialized old n f) := by
  have heard := onStation s n fun t => { t with misses := 0, status := .unknown }
  exact (heard.trans (ite (refl _) (Course.queueInit ..).event)).trans
    ((Course.dealAgain ..).trans (.takeStationEvent ..)).event

theorem firstInitReply : Event s (s.firstInitReply n) := by
  have fresh := (onStation s n Station.initialized).trans
    (setLink _ ((s.onStation n Station.initialized).link.withdraw n .countAck))
  exact ite (fresh.trans (Course.onMeter ..).event) fresh

theorem initReplied : Event s (s.initReplied old n f r) := by
  have heard := onStation s n (·.heard r)
  have booked : Event s (if f.entry.txn.answeredBefore then s.onStation n (·.heard r)
      else (s.onStation n (·.heard r)).firstInitReply n) := ite heard (heard.trans (firstInitReply ..))
  exact ite (booked.trans (((Course.takeStationEvent ..).trans (.initDone ..)).trans (.request ..)).event)
    (booked.trans ((Course.returnEntry ..).trans (.takeStationEvent ..)).event)

/-- The record is changed, the transaction sent again unless DONE, and the sequencer takes the event (R151, R157). -/
theorem replied (g : Station → Station) :
    Event s (((s.onStation n g).sendAgainUnlessDone f r).takeStationEvent old n [] none) :=
  (onStation ..).trans ((Course.sendAgainUnlessDone ..).trans (.takeStationEvent ..)).event

theorem closeReplied : Event s (s.closeReplied old n f r) :=
  ite ((replied ..).trans (Course.closeDone ..).event) (replied ..)

theorem openReplied : Event s (s.openReplied old n f r) :=
  ite ((replied ..).trans (Course.onSpot ..).event) (replied ..)

theorem sampleReplied : Event s (s.sampleReplied old n f r) := by
  unfold State.sampleReplied
  exact ((onStation s n _).trans (((Course.sendAgainUnlessDone ..).trans (.meterReply ..)).trans
    (.takeStationEvent ..)).event).trans ((ite (settleClosing ..) (refl _)).trans
      (((Course.ite (.request ..) (.refl _)).trans (.ite (.request ..) (.refl _))).trans (.judgePollIf ..)).event)

theorem ackReplied : Event s (s.ackReplied old n f r) := replied ..

theorem strokeReplied : Event s (s.strokeReplied old n f r) := by
  unfold State.strokeReplied
  dsimp only
  split
  · exact replied ..
  · exact ite ((replied ..).trans (judgeStroke ..)) (replied ..)

theorem clearReplied : Event s (s.clearReplied old n f r) := (replied ..).trans (Course.judgePoll _).event

variable {taken : State → State → SpotNo → InFlight → LinkReply → State} in
/-- A reply is an event, whatever becomes of it, where taking it is one (R144). -/
theorem takeReply (each : ∀ t old n f r, Event t (taken t old n f r)) (kind : LinkKind) (frame : List Byte) :
    Event s (s.takeReply kind frame taken) := by
  have missed (n : SpotNo) (f : InFlight) := (freeLink s).trans (missed _ s n f)
  unfold State.takeReply
  split
  · exact refl s
  · split
    · exact refl s
    · refine ite ((freeLink s).trans (Course.judgePollIf ..).event) (ite (missed ..) ?_)
      split
      · exact missed ..
      · exact ite ((freeLink s).trans (each ..)) ((freeLink s).trans (notInitialized ..))

theorem pollNotInitialized : Event s (s.pollNotInitialized n) :=
  (onStation ..).trans ((Course.queueInit ..).trans (.takeStationEvent ..)).event

theorem pollDone (slots : List (List Byte)) : Event s (s.pollDone slots) := by
  have absent := foldl State.pollNotInitialized pollNotInitialized (s.slotsFound slots .notInitialized) s
  have read := absent.trans (foldl (fun t n => t.request n (.sampleRead ⟨none, false, true⟩))
    (fun _ _ => (Course.request ..).event) (s.slotsFound slots .flagged) _)
  exact (ite (read.trans (setLink ..)) read).trans (Course.judgePoll _).event

end Event

end Sys2Proof.Machine
end

section
/-! SUPPORT. No well-formed command stops, and none takes anything from the queue of commands: each leaves `pending`, as every
shared operation does (R144, R186). -/

namespace Sys2Proof.Machine

namespace State

variable (s : State) (n : SpotNo)

/-! ## Shared operations leave the queue of commands -/

@[simp] theorem pending_examine : s.examine.pending = s.pending := (Course.examine s).pending

@[simp] theorem pending_giveUp : (s.giveUp n).pending = s.pending := (Course.giveUp s n).pending

@[simp] theorem pending_enterPurge (reason : Option EndReason) : (s.enterPurge n reason).pending = s.pending :=
  (Course.enterPurge s n reason).pending

@[simp] theorem pending_enterHeld (reason : HoldReason) : (s.enterHeld n reason).pending = s.pending :=
  (Course.enterHeld s n reason).pending

@[simp] theorem pending_enterStartWait : (s.enterStartWait n).pending = s.pending := (Course.enterStartWait s n).pending

@[simp] theorem pending_resumeStripWait : (s.resumeStripWait n).pending = s.pending := (Course.resumeStripWait s n).pending

@[simp] theorem pending_enterComplete : (s.enterComplete n).pending = s.pending := (Course.enterComplete s n).pending

@[simp] theorem pending_moveOnInputs : (s.moveOnInputs n).pending = s.pending := (Course.moveOnInputs s n).pending

@[simp] theorem pending_takeCauses (brought : List TripCause) : (s.takeCauses n brought).pending = s.pending :=
  (Course.takeCauses s n brought).pending

@[simp] theorem pending_queueInit : (s.queueInit n).pending = s.pending := (Course.queueInit s n).pending

@[simp] theorem pending_judgePoll : s.judgePoll.pending = s.pending := (Course.judgePoll s).pending

@[simp] theorem pending_judgePollIf (owed : Bool) : (s.judgePollIf owed).pending = s.pending :=
  (Course.judgePollIf s owed).pending

@[simp] theorem pending_takeStationEvent (old : State) (extra : List TripCause) (r : Option WindowReport) :
    (s.takeStationEvent old n extra r).pending = s.pending := (Course.takeStationEvent s old n extra r).pending

@[simp] theorem pending_endPurge : (s.endPurge n).pending = s.pending := (Event.endPurge s n).pending

@[simp] theorem pending_startStroke (v : ValveIndex) (o : StrokeOrigin) : (s.startStroke v o).pending = s.pending :=
  (Event.startStroke s v o).pending

@[simp] theorem pending_endStroke (k : Stroke) (drive : Bool) : (s.endStroke k drive).pending = s.pending :=
  (Event.endStroke s k drive).pending

@[simp] theorem pending_abortStroke (drive : Bool) : (s.abortStroke drive).pending = s.pending :=
  (Event.abortStroke s drive).pending

@[simp] theorem pending_abortStrokeOn : (s.abortStrokeOn n).pending = s.pending := (Event.abortStrokeOn s n).pending

theorem pending_tellAll {α : Type} (told : List α) (f : State → α → State) (each : ∀ t a, (f t a).pending = t.pending) :
    (s.tellAll told f).pending = s.pending := by
  have fold (l : List α) (t : State) : (l.foldl f t).pending = t.pending := by
    induction l generalizing t with
    | nil => rfl
    | cons a l ih => exact (ih _).trans (each t a)
  exact fold ..

@[simp] theorem pending_takeWindow (phase : Phase) (period : Nat) : (s.takeWindow n phase period).1.pending = s.pending := by
  by_cases asks : (s.meter n).windowRead = none ∧ (s.station n).status ≠ .lost
  · rw [takeWindow_asks _ _ asks.1 asks.2]
    exact (Course.request ..).pending
  · rw [takeWindow_computes _ _ (by tauto)]
    rfl

/-! ## The owners of the requests (R186) -/

theorem pending_addCar (body : List Byte) : (s.addCar body).state.pending = s.pending := by
  unfold addCar
  split
  · rfl
  · split
    · rfl
    · rfl
    · split <;> rfl

theorem pending_withdrawCar (body : List Byte) : (s.withdrawCar body).state.pending = s.pending := by
  unfold withdrawCar
  split
  · rfl
  · split
    · rfl
    · split <;> rfl

theorem pending_moveCar (body : List Byte) : (s.moveCar body).state.pending = s.pending := by
  unfold moveCar
  split
  · rfl
  · split
    · split <;> rfl
    · split <;> rfl

theorem pending_assign (body : List Byte) : (State.assign body n s).state.pending = s.pending := by
  unfold assign
  split_ifs
  iterate 5 rfl
  split
  · rfl
  · exact pending_moveOnInputs ..

theorem pending_release : (State.release n s).state.pending = s.pending := by
  unfold release
  split_ifs <;> rfl

theorem pending_start (body : List Byte) : (State.start body n s).state.pending = s.pending := by
  unfold start
  split_ifs
  iterate 3 rfl
  exact pending_enterStartWait ..

theorem pending_hold : (State.hold n s).state.pending = s.pending := by
  unfold hold
  split_ifs
  · exact pending_enterHeld ..
  · rfl
  · rfl

theorem pending_resume : (State.resume n s).state.pending = s.pending := by
  unfold resume
  split_ifs
  · rfl
  · rfl
  · dsimp only
    split <;> simp

@[simp] theorem pending_stopLiquid : (s.stopLiquid n).pending = s.pending := by
  unfold stopLiquid
  split <;> simp

theorem pending_stop : (State.stop n s).state.pending = s.pending := by
  unfold stop
  split
  case h_5 =>
    dsimp only
    split <;> simp
  all_goals simp [refuse]

theorem pending_resetTrip : (State.resetTrip n s).state.pending = s.pending := by
  unfold resetTrip leaveTripped
  split_ifs <;> simp [refuse]

theorem pending_overrideBypass (body : List Byte) : (State.overrideBypass body n s).state.pending = s.pending := by
  unfold overrideBypass
  split_ifs <;> rfl

theorem pending_configure (body : List Byte) : (State.configure body n s).state.pending = s.pending := by
  unfold configure
  split
  · rfl
  · split
    · rfl
    · dsimp only
      split
      · simp [makePresent]
      · simp [makeAbsent]

theorem pending_loadGrade (body : List Byte) : (s.loadGrade body).state.pending = s.pending := by
  unfold loadGrade
  split
  · rfl
  · split <;> rfl

theorem pending_configureSiding (body : List Byte) : (s.configureSiding body).state.pending = s.pending := by
  unfold configureSiding
  dsimp only
  split
  · rfl
  · split_ifs <;> rfl

theorem pending_setMode (body : List Byte) : (s.setMode body).state.pending = s.pending := by
  unfold setMode
  split
  · rfl
  · rename_i mode _
    split
    · rfl
    · cases mode with
      | run => exact pending_examine _
      | quiet => rfl
      | shut => exact pending_tellAll _ _ _ fun t n => pending_enterHeld ..

theorem pending_requestProof (body : List Byte) : (s.requestProof body).state.pending = s.pending := by
  unfold requestProof
  split
  · rfl
  · dsimp only
    split
    · rfl
    · split
      · rfl
      · split_ifs
        iterate 4 rfl
        exact pending_startStroke ..

theorem pending_releaseTicket (body : List Byte) : (s.releaseTicket body).state.pending = s.pending := by
  unfold releaseTicket
  split
  · rfl
  · split
    · unfold releaseOldest
      split
      · rfl
      · exact pending_enterComplete ..
    · rfl

theorem pending_takeRestart : s.takeRestart.state.pending = s.pending := by
  unfold takeRestart
  split
  · rfl
  · rw [restart_eq]
    exact pending_abortStroke ..

theorem pending_forSpot {body : List Byte} {owner : SpotNo → State → Verdict}
    (owned : ∀ n, (owner n s).state.pending = s.pending) : (s.forSpot body owner).state.pending = s.pending := by
  unfold forSpot
  split
  · rfl
  · exact owned _

end State

/-! ## Every command -/

/-- An outcome that is a next state, with the commands that wait as they were. -/
def Proceeds (s : State) (o : Host.Outcome State Fault Refusal) : Prop := ∃ t, o = .next t ∧ t.pending = s.pending

namespace Proceeds

variable {s t : State}

theorem next (same : t.pending = s.pending) : Proceeds s (.next t) := ⟨t, rfl, same⟩

theorem event (e : Event s t) : Proceeds s (.next t) := next e.pending

/-- A timer's expiry is taken where the timer runs, and is no event elsewhere (log 4). -/
theorem iteNext {c : Prop} [Decidable c] (same : t.pending = s.pending) :
    Proceeds s (if c then .next t else .next s) := by
  split
  · exact next same
  · exact next rfl

theorem serve {code tag : Byte} {body : List Byte} {length : Nat} {owner : State → Verdict}
    (owned : (owner s).state.pending = s.pending) : Proceeds s (.next (s.serve code tag body length owner)) := by
  refine next ?_
  unfold State.serve
  split
  · exact owned
  · rfl

/-- A request outside the table is answered UNSUPPORTED (R186). -/
theorem unsupported {code tag : Byte} (body : List Byte) (outside : isRequestCode code = false) :
    Proceeds s (execUnsupportedRequest code tag body s) := by
  unfold execUnsupportedRequest
  rw [if_neg (by simp [outside])]
  exact next rfl

theorem sidingStop : Proceeds s (execSidingStopActive s) := by
  unfold execSidingStopActive
  split
  · exact next rfl
  · refine next (State.pending_tellAll _ _ _ fun t told => ?_)
    cases told with
    | some n => exact State.pending_takeCauses ..
    | none => exact State.pending_abortStroke ..

theorem compressorFault : Proceeds s (execCompressorFaultActive s) := by
  unfold execCompressorFaultActive
  split
  · exact next rfl
  · have frozen : (s.setSiding { s.siding with faultActive := true }).frozen = true := by simp [State.frozen]
    obtain ⟨choices, c, beside, -⟩ := State.expiryBesideFault_of_frozen _ frozen
    refine next ((State.pending_tellAll _ _ _ fun t n => State.pending_enterHeld ..).trans ?_)
    rw [beside]
    rfl

theorem travelTimer {n : SpotNo} {side : ValveSide} : Proceeds s (execTravelTimerExpiry n side s) := by
  unfold execTravelTimerExpiry
  split
  · split
    · exact next (State.pending_takeCauses ..)
    · exact next rfl
  · exact next rfl

theorem strokeTimer : Proceeds s (execStrokeTimerExpiry s) := by
  unfold execStrokeTimerExpiry
  split
  · exact next rfl
  · exact iteNext (State.pending_endStroke ..)

theorem miss : Proceeds s (execSpotLinkMiss s) := by
  have free := Event.freeLink s
  unfold execSpotLinkMiss
  split
  · exact next rfl
  · split
    · exact next rfl
    · split
      · exact event (free.trans (Course.judgePollIf ..).event)
      · exact event (free.trans (.missed ..))

theorem poll {slots : List (List Byte)} : Proceeds s (execAttentionPollComplete slots s) := by
  have free := Event.freeLink s
  unfold execAttentionPollComplete
  split
  · exact next rfl
  · split
    · exact next rfl
    · split
      · exact event (free.trans (Course.judgePoll _).event)
      · exact event (free.trans (.pollDone ..))

end Proceeds

theorem exec_proceeds (c : Instr) (s : State) (wellFormed : c.wellFormed = true) : Proceeds s (exec c s) := by
  cases c with
  | powerOnReset pins => exact .next rfl
  | lineByteReceived b => exact .next rfl
  | lineFramingError => exact .next rfl
  | gapTimerExpiry => exact .next rfl
  | replyLastByteSent => exact .next rfl
  | unsupportedRequest code tag body =>
    rw [Instr.wellFormed, Bool.and_eq_true, Bool.not_eq_true'] at wellFormed
    exact .unsupported body wellFormed.1
  | carAdd tag body => exact .serve (s.pending_addCar body)
  | carWithdraw tag body => exact .serve (s.pending_withdrawCar body)
  | carMove tag body => exact .serve (s.pending_moveCar body)
  | carList tag body => exact .serve rfl
  | spotAssign tag body => exact .serve (s.pending_forSpot fun n => s.pending_assign n body)
  | spotRelease tag body => exact .serve (s.pending_forSpot s.pending_release)
  | spotStart tag body => exact .serve (s.pending_forSpot fun n => s.pending_start n body)
  | spotHold tag body => exact .serve (s.pending_forSpot s.pending_hold)
  | spotResume tag body => exact .serve (s.pending_forSpot s.pending_resume)
  | spotStop tag body => exact .serve (s.pending_forSpot s.pending_stop)
  | spotReset tag body => exact .serve (s.pending_forSpot s.pending_resetTrip)
  | spotOverride tag body => exact .serve (s.pending_forSpot fun n => s.pending_overrideBypass n body)
  | spotConfig tag body => exact .serve (s.pending_forSpot fun n => s.pending_configure n body)
  | spotsRead tag body => exact .serve (congrArg State.pending (SharesFollowStates.state_readSpots body))
  | gradeLoad tag body => exact .serve (s.pending_loadGrade body)
  | gradeRead tag body => exact .serve (congrArg State.pending (SharesFollowStates.state_readGrade body))
  | sidingConfig tag body => exact .serve (s.pending_configureSiding body)
  | sidingMode tag body => exact .serve (s.pending_setMode body)
  | proofRequest tag body => exact .serve (s.pending_requestProof body)
  | proofRead tag body => exact .serve rfl
  | ticketRead tag body => exact .serve (congrArg State.pending SharesFollowStates.state_readTicket)
  | ticketRelease tag body => exact .serve (s.pending_releaseTicket body)
  | status tag body => exact .serve rfl
  | restart tag body => exact .serve s.pending_takeRestart
  | sidingStopActive => exact .sidingStop
  | sidingStopClear => exact .next rfl
  | compressorFaultActive => exact .compressorFault
  | compressorFaultClear => exact .iteNext (State.pending_examine _)
  | compressorRunChange level => exact .next rfl
  | attentionLineActive level => exact .next (State.pending_judgePollIf ..)
  | settleTimerExpiry n => exact .iteNext rfl
  | windowTimerExpiry n => exact .iteNext ((State.pending_takeStationEvent ..).trans (State.pending_takeWindow ..))
  | transferLimitExpiry n => exact .iteNext (State.pending_enterPurge ..)
  | stripTimerExpiry n => exact .iteNext (State.pending_enterPurge ..)
  | purgeTimerExpiry n => exact .iteNext ((apply_ite State.pending ..).trans (by simp))
  | travelTimerExpiry n side => exact .travelTimer
  | spacingTimerExpiry => exact .iteNext (State.pending_examine _)
  | changeoverTimerExpiry => exact .iteNext (State.pending_examine _)
  | ageTimerExpiry => exact .iteNext rfl
  | hourTimerExpiry => exact .iteNext rfl
  | proofStepTimerExpiry => exact .iteNext ((apply_ite State.pending ..).trans (by simp))
  | strokeTimerExpiry => exact .strokeTimer
  | holdOffExpiry n kind => exact .iteNext rfl
  | pollHoldOffExpiry => exact .iteNext (State.pending_judgePoll _)
  | recoveryTimerExpiry n => exact .iteNext (State.pending_queueInit ..)
  | transactionSend => exact .next rfl
  | spotLinkMiss => exact .miss
  | initializeReply frame => exact .event (.takeReply s Event.initReplied ..)
  | closeReply frame => exact .event (.takeReply s Event.closeReplied ..)
  | valveOpenReply frame => exact .event (.takeReply s Event.openReplied ..)
  | sampleReadReply frame => exact .event (.takeReply s Event.sampleReplied ..)
  | countAckReply frame => exact .event (.takeReply s Event.ackReplied ..)
  | strokeReply frame => exact .event (.takeReply s Event.strokeReplied ..)
  | clearReply frame => exact .event (.takeReply s Event.clearReplied ..)
  | attentionPollComplete slots => exact .poll

/-- Settles O60: every arm of `exec` is a next state but UNSUPPORTED_REQUEST with a code of the table, which is not
well-formed. -/
theorem wellFormedCommandsNeverStop : Obligations.WellFormedCommandsNeverStop := exec_proceeds

end Sys2Proof.Machine
end

section
/-! SUPPORT. Which replies are taken, which are misses, and what a transaction that must be sent again leaves (R144, R151, R156,
R159, R164). -/

namespace Sys2Proof.Machine

/-! ## COUNT_ACK and CLEAR (R159, R164) -/

/-- Settles O52: the station record, the transaction that is sent again unless DONE, then the sequencer. -/
theorem ackAndClearReplies : Obligations.AckAndClearReplies := by
  unfold Obligations.AckAndClearReplies
  intro s n flags f present t heard
  refine ⟨fun seq amount data awaits len => ?_, fun awaits => ?_⟩
  · intro reply acked
    have replied : exec reply s =
        .next (s.freeLink.ackReplied s n f ⟨true, flags.getLsbD 1, flags.getLsbD 2, data⟩) :=
      congrArg _ (State.takeReply_present awaits flags data State.ackReplied (by rw [len]; rfl) present)
    refine ⟨fun notDone => ⟨_, ?_, State.takes_reply_again s heard f n _ _⟩, fun done =>
      ⟨_, ?_, State.takes_reply s acked n⟩⟩
    · rw [replied, notDone, ← State.returnEntry_eq awaits.station, ← awaits.txn]
      rfl
    · have amounts : f.entry.txn.ackAmount = amount := by rw [awaits.txn]; rfl
      rw [replied, done, State.ackReplied, amounts]
      rfl
  · have replied : exec (.clearReply (linkReplyFrame n .clear flags [])) s =
        .next (s.freeLink.clearReplied s n f ⟨true, flags.getLsbD 1, flags.getLsbD 2, []⟩) :=
      congrArg _ (State.takeReply_present awaits flags [] State.clearReplied rfl present)
    cases done : flags.getLsbD 1 with
    | true =>
      refine ⟨_, ?_, State.takes_reply s heard n⟩
      rw [replied, done]
      rfl
    | false =>
      refine ⟨_, ?_, State.takes_reply_again s heard f n _ _⟩
      rw [replied, done, ← State.returnEntry_eq awaits.station, ← awaits.txn]
      rfl

/-! ## Frames that are taken (R144, R145) -/

/-- A frame that is taken is that of the station and the kind with its own flags and data, with the length of the kind or
the flags alone and PRESENT clear. -/
theorem linkReplyFrame_of_replyValid {n : SpotNo} {kind : LinkKind} {frame : List Byte}
    (valid : replyValid n kind frame = true) : ∃ flags data extra, frame = linkReplyFrame n kind flags data ++ extra
      ∧ (data.length + 1 = replyLength kind ∨ (data = [] ∧ flags.getLsbD 0 = false)) := by
  simp only [replyValid, Bool.and_eq_true, Bool.or_eq_true, Bool.not_eq_true', decide_eq_true_eq, beq_iff_eq] at valid
  obtain ⟨⟨⟨⟨enough, crc⟩, address⟩, code⟩, length⟩ := valid
  obtain ⟨k, declared⟩ : ∃ k, num1 frame 2 = k + 1 := by
    have : 1 ≤ replyLength kind := by cases kind <;> decide
    exact ⟨num1 frame 2 - 1, by omega⟩
  rw [declared] at enough crc length
  match frame, enough with
  | a :: b :: c :: d :: rest, enough =>
    have inside : k < rest.length := by simp only [List.length_cons] at enough; omega
    have long : (rest.take k).length = k := List.length_take_of_le inside.le
    have ha : a = addressByte (some n) := address
    have hb : b = BitVec.ofNat 8 kind.code := Byte.eq_of_toNat code
    have hc : c = BitVec.ofNat 8 (k + 1) := Byte.eq_of_toNat declared
    have he : rest[k] = crc8 (a :: b :: c :: d :: rest.take k) := by
      have : byteAt (a :: b :: c :: d :: rest) (k + 1 + 3) = rest[k] := by simp [byteAt, inside]
      rw [← this, crc]
      rfl
    refine ⟨d, rest.take k, rest.drop (k + 1), ?_, ?_⟩
    · have split : rest = rest.take k ++ rest[k] :: rest.drop (k + 1) := by simp
      conv_lhs => rw [split, he, ha, hb, hc]
      simp [linkReplyFrame, long]
    · rw [long]
      refine length.imp id fun ⟨one, absent⟩ => ⟨List.length_eq_zero_iff.mp (by omega), ?_⟩
      rw [← BitVec.testBit_toNat]
      exact absent

theorem takeFrame_none {n : SpotNo} {kind : LinkKind} {frame : List Byte}
    (h : ¬∃ flags data extra, frame = linkReplyFrame n kind flags data ++ extra
      ∧ (data.length + 1 = replyLength kind ∨ (data = [] ∧ flags.getLsbD 0 = false))) : takeFrame n kind frame = none :=
  if_neg (mt linkReplyFrame_of_replyValid h)

/-! ## What a reply is taken for (R144, R153) -/

namespace State

variable {s b : State} {kind : LinkKind} {frame : List Byte} {f : InFlight} {n : SpotNo} {txn : Txn}
  {taken : State → State → SpotNo → InFlight → LinkReply → State}

/-- With nothing in flight, or a poll, a reply is disregarded. -/
theorem takeReply_idle (idle : ∀ f, s.link.inFlight = some f → f.entry.station = none) :
    s.takeReply kind frame taken = s := by
  unfold takeReply
  cases flying : s.link.inFlight with
  | none => rfl
  | some f => simp only [idle f flying]

/-- A reply to a dropped transaction frees the link as a miss of it does. -/
theorem takeReply_dropped (flying : s.link.inFlight = some f) (station : f.entry.station = some n)
    (dropped : f.mark = .dropped) : s.takeReply kind frame taken = s.freeLink.judgePollIf f.entry.txn.holdsPoll := by
  simp only [takeReply, flying, station, dropped, beq_self_eq_true, if_true]

theorem exec_miss_dropped (flying : s.link.inFlight = some f) (station : f.entry.station = some n)
    (dropped : f.mark = .dropped) : exec .spotLinkMiss s = .next (s.freeLink.judgePollIf f.entry.txn.holdsPoll) := by
  show execSpotLinkMiss s = _
  simp only [execSpotLinkMiss, flying, station, dropped, beq_self_eq_true, if_true]

/-- A reply of another kind, or one that is no frame of the station and the kind, is a miss. -/
theorem takeReply_missed (awaits : Awaits s f n txn) (unfit : txn.kind ≠ kind ∨ takeFrame n kind frame = none) :
    s.takeReply kind frame taken = s.freeLink.missed s n f := by
  have kept : (f.mark == .dropped) = false := beq_false_of_ne awaits.notDropped
  simp only [takeReply, awaits.flight, awaits.station, awaits.txn, kept, Bool.false_eq_true, if_false]
  split
  · rfl
  · rename_i same
    rw [unfit.resolve_left (by simpa using same)]

/-- One with PRESENT clear is taken by R156. -/
theorem takeReply_notPresent (awaits : Awaits s f n txn) (of : txn.kind = kind) {r : LinkReply}
    (frames : takeFrame n kind frame = some r) (clear : r.present = false) :
    s.takeReply kind frame taken = s.freeLink.notInitialized s n f := by
  have kept : (f.mark == .dropped) = false := beq_false_of_ne awaits.notDropped
  simp only [takeReply, awaits.flight, awaits.station, awaits.txn, kept, of, frames, clear, bne_self_eq_false,
    Bool.false_eq_true, if_false]

theorem exec_miss (awaits : Awaits s f n txn) : exec .spotLinkMiss s = .next (s.freeLink.missed s n f) := by
  have kept : (f.mark == .dropped) = false := beq_false_of_ne awaits.notDropped
  show execSpotLinkMiss s = _
  simp only [execSpotLinkMiss, awaits.flight, awaits.station, kept, Bool.false_eq_true, if_false]

/-! ## A transaction that is sent again as after a miss (R151, R156) -/

/-- A SAMPLE_READ returns without its WINDOW marking, where another is left (R151). -/
def readAgain (b : State) (f : InFlight) (n : SpotNo) (marks : Markings) : State :=
  if (marks.closing || marks.attention) = true then
    b.joinsAgain f n (.sampleRead ⟨none, marks.closing, marks.attention⟩) .stopped
  else b

theorem returnRead_eq (station : f.entry.station = some n) (marks : Markings) :
    b.returnRead f marks = b.readAgain f n marks := by
  unfold returnRead readAgain
  rw [← returnEntry_eq station]
  cases marks.closing <;> cases marks.attention <;> rfl

/-- The window computed where its read missed: no pulses, held values (R54). -/
def windowMissed (s : State) (n : SpotNo) (w : WindowRead) : Meter × WindowReport :=
  { s.meter n with windowRead := none }.computeWindow (s.spot n).config (s.carGrade n) (s.targetOf n) w 0 true none

theorem missWindow_of_none (nothing : (s.meter n).windowRead = none) : s.missWindow n = (s, none) := by
  rw [missWindow, completeWindow_eq, nothing]
  rfl

theorem missWindow_of_some {w : WindowRead} (outstanding : (s.meter n).windowRead = some w) :
    s.missWindow n = (s.setMeter n (s.windowMissed n w).1, some (s.windowMissed n w).2) := by
  rw [missWindow, completeWindow_eq, outstanding]
  rfl

/-- What a window computed at a miss brings to its spot: SENSOR_FAULT, where it is the fifth in a row (R65, R112). -/
def missCauses (s : State) (n : SpotNo) (m : Meter) : List TripCause :=
  if ((s.spot n).state = .transfer ∨ (s.spot n).state = .strip) ∧ m.heldRun = 5 then [.sensorFault] else []

theorem reportCauses_windowMissed (w : WindowRead) :
    reportCauses (s.spot n).state (some (s.windowMissed n w).2) = s.missCauses n (s.windowMissed n w).1 := by
  by_cases moving : (s.spot n).state.moving = true
  · rw [windowMissed, reportCauses_window moving, missCauses]
    exact if_congr (and_iff_right ((SpotState.moving_iff _).mp moving)).symm rfl rfl
  · rw [missCauses, if_neg (fun h => moving ((SpotState.moving_iff _).mpr h.1)), reportCauses, Bool.eq_false_iff.mpr moving]
    rfl

/-- Where no level cause rose, an event brings its own causes alone (R108, R113). -/
theorem takes_calm (calm : causesRisen s b n = []) (extra : List TripCause) (ordered : causeUnion [] extra = extra) :
    SequencerTakes b (b.takeStationEvent s n extra none) n extra := by
  have takes := takes_takeStationEvent b n s extra
  rwa [show b.risen s n = [] from calm, ordered] at takes

/-- What the sequencer and the metering engine are left with, from a state `b` where the link is free and the station record
is written, when the transaction to station `n` is to be sent again (R151, R156). -/
structure DealsAgain (s b u : State) (f : InFlight) (n : SpotNo) (txn : Txn) : Prop where
  other : txn.kind ≠ .sampleRead → SequencerTakes (b.joinsAgain f n txn .stopped) u n []
  read : ∀ marks, txn = .sampleRead marks → marks.window = none ∨ (s.meter n).windowRead = none →
    SequencerTakes (b.readAgain f n marks) u n []
  window : ∀ marks w, txn = .sampleRead marks → marks.window ≠ none → (s.meter n).windowRead = some w →
    ∃ m, SequencerTakes ((b.readAgain f n marks).setMeter n (s.windowMissed n w).1) m n
        (s.missCauses n (s.windowMissed n w).1)
      ∧ OutcomeTaken m u n (s.windowMissed n w).2

theorem course_readAgain (b : State) (f : InFlight) (n : SpotNo) (marks : Markings) : Course b (b.readAgain f n marks) :=
  .ite (course_joinsAgain ..) (.refl _)

theorem spots_readAgain (marks : Markings) : (b.readAgain f n marks).spots = b.spots
    ∧ (b.readAgain f n marks).meters = b.meters := by
  unfold readAgain joinsAgain
  split_ifs <;> exact ⟨rfl, rfl⟩

/-- The transaction is dealt with and the sequencer takes the event, where no level cause rose. -/
theorem dealsAgain (awaits : Awaits s f n txn) (calm : causesRisen s b n = []) (spots : b.spots = s.spots)
    (meters : b.meters = s.meters) (grades : b.grades = s.grades) :
    DealsAgain s b ((b.dealAgain n f).1.takeStationEvent s n
      (reportCauses (s.spot n).state (b.dealAgain n f).2) (b.dealAgain n f).2) f n txn := by
  have calmly {c : State} (course : Course b c) : causesRisen s c n = [] :=
    (causesRisen_congr (course.station n) course.siding).trans calm
  have nothing : reportCauses (s.spot n).state none = [] := by simp [reportCauses]
  refine ⟨fun other => ?_, fun marks of without => ?_, fun marks w of marked outstanding => ?_⟩
  · have dealt : b.dealAgain n f = (b.joinsAgain f n txn .stopped, none) := by
      unfold dealAgain
      rw [awaits.txn, ← returnEntry_eq awaits.station]
      cases txn with
      | sampleRead => exact absurd rfl other
      | _ => rfl
    rw [dealt, nothing]
    exact takes_calm (calmly (course_joinsAgain ..)) [] rfl
  all_goals
    subst of
    have dealt : b.dealAgain n f = (b.readAgain f n marks).missWindowIf n marks.window.isSome := by
      unfold dealAgain
      rw [awaits.txn, ← returnRead_eq awaits.station]
    obtain ⟨sameSpots, sameMeters⟩ := b.spots_readAgain (f := f) (n := n) marks
    have spot : (b.readAgain f n marks).spot n = s.spot n := by rw [State.spot, sameSpots, spots]; rfl
    have meter : (b.readAgain f n marks).meter n = s.meter n := by rw [State.meter, sameMeters, meters]; rfl
  · have quiet : b.dealAgain n f = (b.readAgain f n marks, none) := by
      rw [dealt, missWindowIf]
      split
      · rename_i marked
        rw [missWindow_of_none (meter ▸ without.resolve_left (Option.isSome_iff_ne_none.mp marked))]
      · rfl
    rw [quiet, nothing]
    exact takes_calm (calmly (course_readAgain ..)) [] rfl
  · have grade : (b.readAgain f n marks).carGrade n = s.carGrade n := by
      simp only [carGrade, spot, State.grade, (b.course_readAgain f n marks).grades, grades]
    have computed : b.dealAgain n f =
        ((b.readAgain f n marks).setMeter n (s.windowMissed n w).1, some (s.windowMissed n w).2) := by
      rw [dealt, missWindowIf, if_pos (Option.isSome_iff_ne_none.mpr marked), missWindow_of_some (meter ▸ outstanding)]
      simp only [windowMissed, targetOf, meter, spot, grade]
    rw [computed, reportCauses_windowMissed]
    refine ⟨_, takes_calm (calmly ((course_readAgain ..).trans (.setMeter ..))) _ ?_, outcome_takeOutcome ..⟩
    unfold missCauses
    split <;> rfl

/-- No level cause rises where the station becomes UNKNOWN or keeps its status, and keeps its inputs (R108). -/
theorem causesRisen_calm (inputs : (b.station n).inputs = (s.station n).inputs)
    (status : (b.station n).status = (s.station n).status ∨ (b.station n).status = .unknown)
    (siding : b.siding = s.siding) : causesRisen s b n = [] := by
  refine risen_none b n s fun c => ?_
  rcases status with same | unknown
  · cases c <;> simp [levelCondition, inputs, same, siding]
  · cases c <;> simp [levelCondition, inputs, unknown, siding]

/-- A reply with PRESENT clear (R156). -/
theorem dealsAgain_notInitialized (awaits : Awaits s f n txn) :
    let heard := s.hears n { s.station n with misses := 0, status := .unknown }
    DealsAgain s (if txn.kind = .initStation then heard else heard.join ⟨some n, .initStation false, .stopped⟩)
      (s.freeLink.notInitialized s n f) f n txn := by
  intro heard
  set b := if txn.kind = .initStation then heard else heard.join ⟨some n, .initStation false, .stopped⟩ with hb
  have station : heard.station n = { s.station n with misses := 0, status := .unknown } := station_setStation_self ..
  have queued : (if f.entry.txn.kind == .initStation then heard else heard.queueInit n) = b := by
    have joins : heard.queueInit n = heard.join ⟨some n, .initStation false, .stopped⟩ :=
      if_neg (by simp [station])
    rw [awaits.txn, joins]
    exact if_congr beq_iff_eq rfl rfl
  have course : Course heard b := .ite (.refl _) (.join ..)
  have calm : causesRisen s b n = [] :=
    causesRisen_calm (by rw [course.station, station]) (.inr (by rw [course.station, station])) course.siding
  have same : b.spots = s.spots ∧ b.meters = s.meters := by rw [hb]; split <;> exact ⟨rfl, rfl⟩
  have deals := dealsAgain awaits calm same.1 same.2 course.grades
  rw [← queued] at deals
  exact queued ▸ deals

end State

/-! ## Every reply (R144) -/

/-- Each reply command is taken for its kind. -/
theorem exec_reply {row : LinkKind × (List Byte → Instr)} (mem : row ∈ [(LinkKind.initStation, Instr.initializeReply),
      (.close, Instr.closeReply), (.sampleRead, Instr.sampleReadReply), (.countAck, Instr.countAckReply),
      (.valveOpen, Instr.valveOpenReply), (.stroke, Instr.strokeReply), (.clear, Instr.clearReply)]) :
    ∃ taken, ∀ frame s, exec (row.2 frame) s = .next (s.takeReply row.1 frame taken) := by
  simp only [List.mem_cons, List.not_mem_nil, or_false] at mem
  rcases mem with rfl | rfl | rfl | rfl | rfl | rfl | rfl
  all_goals exact ⟨_, fun _ _ => rfl⟩

/-- Settles O48: a reply is disregarded, or a miss, or taken by R156, by what is in flight and what its frame says. -/
theorem repliesAreJudged : Obligations.RepliesAreJudged := by
  unfold Obligations.RepliesAreJudged
  intro s frame row mem
  obtain ⟨taken, replies⟩ := exec_reply mem
  rw [replies]
  refine ⟨fun idle => ?_, fun f n flying station dropped => ?_, fun f n txn awaits => ⟨fun unfit => ?_, ?_⟩⟩
  · rw [State.takeReply_idle idle]
  · rw [State.takeReply_dropped flying station dropped, State.exec_miss_dropped flying station dropped]
  · rw [State.takeReply_missed awaits (unfit.imp id takeFrame_none), State.exec_miss awaits]
  · intro flags data extra of same length clear heard b
    have frames : takeFrame n row.1 frame = some ⟨false, flags.getLsbD 1, flags.getLsbD 2, data⟩ := by
      rw [same, takeFrame_linkReplyFrame n row.1 flags data extra (length.imp id fun empty => ⟨empty, clear⟩), clear]
    rw [State.takeReply_notPresent awaits of frames rfl]
    have deals := State.dealsAgain_notInitialized awaits
    rw [of] at deals
    refine ⟨fun other => ⟨_, rfl, deals.other (of ▸ other)⟩, fun marks read => ?_⟩
    intro c
    refine ⟨fun without => ⟨_, rfl, deals.read marks read without⟩, fun w marked outstanding => ?_⟩
    obtain ⟨m, takes, outcome⟩ := deals.window marks w read marked outstanding
    exact ⟨m, _, rfl, takes, outcome⟩

end Sys2Proof.Machine
end

section
/-! SUPPORT. The attention poll as a whole: what the slots with PRESENT clear leave together, the reads of the flagged stations,
and the hold-off where there is none (R156, R162, R163). -/

namespace Sys2Proof.Machine

/-! ## Reads with the ATTENTION marking (R149, R163) -/

/-- A SAMPLE_READ of station `n` with the ATTENTION marking is pending. -/
def Link.Attends (l : Link) (n : SpotNo) : Prop :=
  ∃ e ∈ l.entries, e.station = some n ∧ ∃ m, e.txn = .sampleRead m ∧ m.attention = true

namespace Link.Attends

variable {l : Link} {n : SpotNo}

/-- Whatever joins, a pending read keeps its ATTENTION marking. -/
theorem join (h : l.Attends n) (e : LinkEntry) : (l.join e).Attends n := by
  obtain ⟨p, mem, place, m, read, attention⟩ := h
  unfold Link.join
  split
  · refine ⟨_, List.mem_map_of_mem mem, ?_⟩
    split
    · refine ⟨place, ?_⟩
      rw [LinkEntry.absorb, read]
      cases e.txn with
      | sampleRead a => exact ⟨_, rfl, by simp [Markings.union, attention]⟩
      | _ => exact ⟨m, rfl, attention⟩
    · exact ⟨place, m, read, attention⟩
  · exact ⟨p, List.mem_append_left _ mem, place, m, read, attention⟩

/-- The read that is asked for is pending with the marking, merged or at the tail. -/
theorem join_self (l : Link) (n : SpotNo) : (l.join (newEntry n (.sampleRead ⟨none, false, true⟩))).Attends n := by
  unfold Link.join
  split
  · rename_i pending
    obtain ⟨p, mem, pair⟩ := List.any_eq_true.mp pending
    refine ⟨_, List.mem_map_of_mem mem, ?_⟩
    rw [if_pos pair]
    simp only [LinkEntry.isPair, Bool.and_eq_true, beq_iff_eq] at pair
    obtain ⟨station, kind⟩ := pair
    refine ⟨station, ?_⟩
    cases read : p.txn with
    | sampleRead a => exact ⟨_, by rw [LinkEntry.absorb, read]; rfl, by simp [Markings.union]⟩
    | _ => simp [read, Txn.kind, newEntry] at kind
  · exact ⟨_, List.mem_append_right _ (List.mem_singleton_self _), rfl, _, rfl, rfl⟩

end Link.Attends

namespace State

/-- The station is read with the ATTENTION marking (R163). -/
def askAttention (s : State) (n : SpotNo) : State := s.request n (.sampleRead ⟨none, false, true⟩)

variable {s t u : State} {told : List SpotNo} {n : SpotNo}

/-! ## Several stations not initialized (R156, R162) -/

/-- The inputs of spot `n` move it neither from ASSIGNED nor from COMPLETE (R6, R25). -/
def StandsStill (s : State) (n : SpotNo) : Prop :=
  ((s.spot n).state = .assigned → ((s.station n).inputs.arms && (s.station n).inputs.bond) = false)
    ∧ ((s.spot n).state = .complete → (s.station n).inputs.arms = true)

/-- What is left once some stations were found with PRESENT clear. -/
structure Uninitialized (s t : State) (told : List SpotNo) : Prop where
  station : ∀ k, t.station k =
    if k ∈ told then { s.station k with misses := 0, status := .unknown } else s.station k
  pending : ∀ k ∈ told, t.link.hasPending (some k) .initStation = true
  keeps : KeepsInit s t
  mask : t.link.mask = s.link.mask
  pollHoldOff : t.link.pollHoldOff = s.link.pollHoldOff
  tickets : t.tickets = s.tickets
  proof : t.proof = s.proof
  still : TripsInOrder s → (∀ n, s.StandsStill n) → t.comp = s.comp ∧ ∀ k, t.spot k = s.spot k ∧ t.meter k = s.meter k

theorem uninitialized_pollNotInitialized (s : State) (n : SpotNo) : Uninitialized s (s.pollNotInitialized n) [n] where
  station k := by
    rw [station_pollNotInitialized]
    by_cases here : k = n <;> simp [here]
  pending k mem := by
    rw [List.mem_singleton.mp mem]
    exact s.pending_pollNotInitialized n
  keeps := s.keepsInit_pollNotInitialized n
  mask := (s.course_pollNotInitialized n).link.mask
  pollHoldOff := (s.course_pollNotInitialized n).link.pollHoldOff
  tickets := (s.course_pollNotInitialized n).tickets
  proof := (s.course_pollNotInitialized n).proof
  still trips stand := s.pollNotInitialized_still n (trips n) (stand n).1 (stand n).2

theorem Uninitialized.cons (first : Uninitialized s t [n]) (rest : Uninitialized t u told) :
    Uninitialized s u (n :: told) where
  station k := by
    rw [rest.station, first.station]
    by_cases here : k = n <;> by_cases later : k ∈ told <;> simp [here, later]
  pending k mem := by
    rcases List.mem_cons.mp mem with rfl | later
    · exact rest.keeps.pending k (first.pending k (List.mem_singleton_self _))
    · exact rest.pending k later
  keeps := first.keeps.trans rest.keeps
  mask := rest.mask.trans first.mask
  pollHoldOff := rest.pollHoldOff.trans first.pollHoldOff
  tickets := rest.tickets.trans first.tickets
  proof := rest.proof.trans first.proof
  still trips stand := by
    obtain ⟨comp, records⟩ := first.still trips stand
    have inputs (k : SpotNo) : (t.station k).inputs = (s.station k).inputs := by
      rw [first.station]
      split <;> rfl
    obtain ⟨comp', records'⟩ := rest.still (fun k => (records k).1 ▸ trips k)
      fun k => by rw [StandsStill, (records k).1, inputs]; exact stand k
    exact ⟨comp'.trans comp, fun k =>
      ⟨(records' k).1.trans (records k).1, (records' k).2.trans (records k).2⟩⟩

theorem uninitialized_foldl (told : List SpotNo) (s : State) :
    Uninitialized s (told.foldl pollNotInitialized s) told := by
  induction told generalizing s with
  | nil => exact ⟨fun k => by simp, nofun, .refl s, rfl, rfl, rfl, rfl, fun _ _ => ⟨rfl, fun _ => ⟨rfl, rfl⟩⟩⟩
  | cons n told ih => exact (s.uninitialized_pollNotInitialized n).cons (ih _)

/-! ## Several stations flagged (R163) -/

/-- What is left once some stations were asked for a read with the ATTENTION marking. -/
structure Asked (s t : State) (told : List SpotNo) : Prop where
  course : Course s t
  keeps : KeepsInit s t
  comp : t.comp = s.comp
  records : ∀ k, t.spot k = s.spot k ∧ t.meter k = s.meter k
  attends : ∀ k, s.link.Attends k ∨ (k ∈ told ∧ (s.station k).status.takesRequests = true) → t.link.Attends k

theorem asked_askAttention (s : State) (n : SpotNo) : Asked s (s.askAttention n) [n] where
  course := .request ..
  keeps := .request ..
  comp := comp_request ..
  records k := ⟨spot_request .., meter_request ..⟩
  attends k h := by
    unfold askAttention request
    rcases h with already | ⟨mem, takes⟩
    · split
      · exact already.join _
      · exact already
    · obtain rfl := List.mem_singleton.mp mem
      rw [if_pos takes]
      exact Link.Attends.join_self ..

theorem Asked.cons (first : Asked s t [n]) (rest : Asked t u told) : Asked s u (n :: told) where
  course := first.course.trans rest.course
  keeps := first.keeps.trans rest.keeps
  comp := rest.comp.trans first.comp
  records k := ⟨(rest.records k).1.trans (first.records k).1, (rest.records k).2.trans (first.records k).2⟩
  attends k h := rest.attends k <| by
    rcases h with already | ⟨mem, takes⟩
    · exact .inl (first.attends k (.inl already))
    · rcases List.mem_cons.mp mem with rfl | later
      · exact .inl (first.attends k (.inr ⟨List.mem_singleton_self _, takes⟩))
      · exact .inr ⟨later, by rw [first.course.station]; exact takes⟩

theorem asked_foldl (told : List SpotNo) (s : State) : Asked s (told.foldl askAttention s) told := by
  induction told generalizing s with
  | nil => exact ⟨.refl s, .refl s, rfl, fun _ => ⟨rfl, rfl⟩, fun k h => h.resolve_right fun none => by cases none.1⟩
  | cons n told ih => exact (s.asked_askAttention n).cons (ih _)

/-! ## The poll (R162, R163) -/

/-- The stations heeded: in the attention mask, and not LOST. -/
theorem mem_slotsFound {slots : List (List Byte)} {v : SlotVerdict} : n ∈ s.slotsFound slots v ↔
    (n ∈ s.link.mask ∧ (s.station n).status ≠ .lost) ∧ judgeSlot n (slots.getD n.val []) = v := by
  simp [slotsFound, heeds, mem_allSpots, and_comm]

/-- The poll hold-off is loaded where no read is queued (R162). -/
def loadPollHoldOff (s : State) : State := s.setLink { s.link with pollHoldOff := .seconds 1 }

theorem pollDone_eq (slots : List (List Byte)) : s.pollDone slots =
    let read := (s.slotsFound slots .flagged).foldl askAttention
      ((s.slotsFound slots .notInitialized).foldl pollNotInitialized s)
    (if s.slotsFound slots .flagged = [] then read.loadPollHoldOff else read).judgePoll := by
  unfold pollDone
  simp only [List.isEmpty_iff]
  rfl

/-- What a completed poll leaves. -/
structure PollTaken (s u : State) (absent flagged : List SpotNo) : Prop where
  flight : s.link.inFlight = none → u.link.inFlight = none
  mask : u.link.mask = s.link.mask
  tickets : u.tickets = s.tickets
  station : ∀ k, u.station k =
    if k ∈ absent then { s.station k with misses := 0, status := .unknown } else s.station k
  pending : ∀ k ∈ absent, u.link.hasPending (some k) .initStation = true
  attends : ∀ k ∈ flagged, k ∉ absent → (s.station k).status.takesRequests = true → u.link.Attends k
  pollHoldOff : u.link.pollHoldOff = if flagged = [] then .running 1000 else s.link.pollHoldOff
  still : TripsInOrder s → (∀ n, s.StandsStill n) →
    u.comp = s.comp ∧ u.proof = s.proof ∧ ∀ k, u.spot k = s.spot k ∧ u.meter k = s.meter k

theorem pollTaken_pollDone (s : State) (slots : List (List Byte)) :
    PollTaken s (s.pollDone slots) (s.slotsFound slots .notInitialized) (s.slotsFound slots .flagged) := by
  rw [pollDone_eq]
  set absent := s.slotsFound slots .notInitialized
  set flagged := s.slotsFound slots .flagged
  set b := absent.foldl pollNotInitialized s
  set c := flagged.foldl askAttention b
  have first : Uninitialized s b absent := uninitialized_foldl absent s
  have second : Asked b c flagged := asked_foldl flagged b
  dsimp only
  set d := if flagged = [] then c.loadPollHoldOff else c with hd
  have loaded : d = c.setLink { c.link with
      pollHoldOff := if flagged = [] then .running 1000 else c.link.pollHoldOff } := by
    rw [hd]
    split <;> rfl
  have keeps : KeepsInit c d := .of_same (by rw [loaded]; rfl) (by rw [loaded]; rfl)
  have last := Course.judgePoll d
  have station (k : SpotNo) : d.judgePoll.station k = b.station k := by
    rw [last.station, ← second.course.station, loaded]
    rfl
  have all := (first.keeps.trans second.keeps).trans (keeps.trans (.judgePoll d))
  refine ⟨all.free, ?_, ?_, fun k => (station k).trans (first.station k), fun k mem => ?_, fun k mem other takes => ?_, ?_,
    fun trips stand => ?_⟩
  · rw [last.link.mask, ← first.mask, ← second.course.link.mask, loaded]
    rfl
  · rw [last.tickets, ← first.tickets, ← second.course.tickets, loaded]
    rfl
  · exact (KeepsInit.judgePoll d).pending k (keeps.pending k (second.keeps.pending k (first.pending k mem)))
  · have asked : d.link.Attends k := by
      rw [loaded]
      refine second.attends k (.inr ⟨mem, ?_⟩)
      rw [first.station, if_neg other]
      exact takes
    unfold judgePoll
    split
    · exact asked.join _
    · exact asked
  · rw [last.link.pollHoldOff, loaded, ← first.pollHoldOff, ← second.course.link.pollHoldOff]
    rfl
  · obtain ⟨comp, records⟩ := first.still trips stand
    refine ⟨?_, ?_, fun k => ⟨?_, ?_⟩⟩
    · rw [comp_judgePoll, ← comp, ← second.comp, loaded]
      rfl
    · rw [last.proof, ← first.proof, ← second.course.proof, loaded]
      rfl
    · rw [spot_judgePoll, ← (records k).1, ← (second.records k).1, loaded]
      rfl
    · rw [meter_judgePoll, ← (records k).2, ← (second.records k).2, loaded]
      rfl

end State

/-- Settles O54: the stations found with PRESENT clear first, then the reads of those flagged, or the hold-off. -/
theorem attentionPollIsTaken : Obligations.AttentionPollIsTaken := by
  unfold Obligations.AttentionPollIsTaken
  intro slots s _ trips free slot heeded notFlagged notInitialized read
  have absent (n : SpotNo) : n ∈ free.slotsFound slots .notInitialized ↔ heeded n ∧ notInitialized n := by
    rw [State.mem_slotsFound, judgeSlot_notInitialized]
    rfl
  have flagged (n : SpotNo) : n ∈ free.slotsFound slots .flagged ↔ read n := by
    rw [State.mem_slotsFound, judgeSlot_flagged]
    exact and_congr Iff.rfl (and_congr (judgeSlot_notFlagged ..).not (judgeSlot_notInitialized ..).not)
  have poll {f : InFlight} (of : f.entry.txn = .attentionPoll) : (f.entry.txn.kind != .attentionPoll) = false := by
    rw [of]
    rfl
  refine ⟨fun other => ?_, fun f flying of dropped => ?_, fun f flying of live => ?_⟩
  · show execAttentionPollComplete slots s = _
    unfold execAttentionPollComplete
    split
    · rfl
    · rename_i f flying
      refine if_pos (bne_iff_ne.mpr fun kind => other f flying ?_)
      cases of : f.entry.txn <;> simp [of, Txn.kind] at kind ⊢
  · show execAttentionPollComplete slots s = _
    simp only [execAttentionPollComplete, flying, poll of, dropped, beq_self_eq_true, Bool.false_eq_true, if_false, if_true]
    rfl
  · have completes : exec (.attentionPollComplete slots) s = .next (free.pollDone slots) := by
      have kept : (f.mark == .dropped) = false := beq_false_of_ne live
      show execAttentionPollComplete slots s = _
      simp only [execAttentionPollComplete, flying, poll of, kept, Bool.false_eq_true, if_false]
      rfl
    have done := free.pollTaken_pollDone slots
    refine ⟨_, completes, (Event.freeLink s).trans (.pollDone ..), done.flight rfl, done.mask, done.tickets, fun n here => ?_,
      fun n other => ?_, fun n reads present => ?_, fun ⟨n, reads⟩ => ?_, fun none => ?_, done.still trips⟩
    · exact ⟨by rw [done.station, if_pos ((absent n).mpr here)]; rfl, done.pending n ((absent n).mpr here)⟩
    · rw [done.station, if_neg (mt (absent n).mp other)]
      rfl
    · exact done.attends n ((flagged n).mpr reads) (fun mem => reads.2.2 ((absent n).mp mem).2)
        (StationStatus.takesRequests_iff.mpr ⟨present, reads.1.2⟩)
    · rw [done.pollHoldOff, if_neg (List.ne_nil_of_mem ((flagged n).mpr reads))]
    · rw [done.pollHoldOff, if_pos (List.eq_nil_iff_forall_not_mem.mpr fun n mem => none n ((flagged n).mp mem))]

end Sys2Proof.Machine
end

section
/-! SUPPORT. What no operation brings back for a LOST station: its transactions are discarded, an outstanding window read or closing
read of it does not return (R154). -/

namespace Sys2Proof.Machine

/-! ## Metering records (R72, R154) -/

/-- A window read that is none stays so, a closing read that is none stays so, and PULSES_UNREAD stays set. -/
structure Meter.StaysDone (m m' : Meter) : Prop where
  window : m.windowRead = none → m'.windowRead = none
  closing : m.closingRequest = false → m'.closingRequest = false
  unread : m.flags.pulsesUnread = true → m'.flags.pulsesUnread = true

theorem Meter.StaysDone.refl (m : Meter) : m.StaysDone m := ⟨id, id, id⟩

theorem Meter.StaysDone.trans {m m' m'' : Meter} (a : m.StaysDone m') (b : m'.StaysDone m'') : m.StaysDone m'' :=
  ⟨b.window ∘ a.window, b.closing ∘ a.closing, b.unread ∘ a.unread⟩

theorem Meter.windowRead_checkWindow (m : Meter) (c : SpotConfig) (g : Option Grade) (target : Option Nat) (w : WindowRead)
    (v : Nat) (estimated : Bool) (fresh : Option Nat) :
    (m.checkWindow c g target w v estimated fresh).1.windowRead = m.windowRead := by
  rw [Meter.checkWindow_eq]

theorem Meter.windowRead_markEstimated (m : Meter) (estimated : Bool) :
    (m.markEstimated estimated).windowRead = m.windowRead := by
  rw [Meter.markEstimated_eq]

/-- Computing a window leaves the window read (R53). -/
theorem Meter.windowRead_computeWindow (m : Meter) (c : SpotConfig) (g : Option Grade) (target : Option Nat) (w : WindowRead)
    (p : Nat) (estimated : Bool) (fresh : Option Nat) :
    (m.computeWindow c g target w p estimated fresh).1.windowRead = m.windowRead := by
  rw [Meter.computeWindow, Meter.windowRead_checkWindow, Meter.windowRead_markEstimated, Meter.InRange.windowRead_booked]

/-! ## Operations at a LOST station -/

/-- An entry that joins brings its own station, and no other that was not in the list. -/
theorem Link.station_of_mem_join {l : Link} {e x : LinkEntry} (mem : x ∈ (l.join e).entries) :
    x.station = e.station ∨ ∃ d ∈ l.entries, d.station = x.station := by
  unfold Link.join at mem
  split at mem
  · obtain ⟨d, there, rfl⟩ := List.mem_map.mp mem
    refine .inr ⟨d, there, ?_⟩
    split <;> rfl
  · rcases List.mem_append.mp mem with old | new
    · exact .inr ⟨x, old, rfl⟩
    · exact .inl (by rw [List.mem_singleton.mp new])

/-- What is kept from one state to another where station `n` is LOST: nothing of it joins the link, and its spot's metering
record is done with its reads. The station records stay, and a free link stays free. -/
structure StaysLost (n : SpotNo) (s t : State) : Prop where
  stations : t.link.stations = s.link.stations
  flight : s.link.inFlight = none → t.link.inFlight = none
  entries : (s.station n).status = .lost → (∀ e ∈ s.link.entries, e.station ≠ some n) →
    ∀ e ∈ t.link.entries, e.station ≠ some n
  meter : (s.station n).status = .lost → (s.meter n).StaysDone (t.meter n)

namespace StaysLost

variable {n : SpotNo} {s t u : State}

theorem refl (s : State) : StaysLost n s s := ⟨rfl, id, fun _ => id, fun _ => .refl _⟩

theorem station (a : StaysLost n s t) (k : SpotNo) : t.station k = s.station k := by
  rw [State.station, State.station, a.stations]

theorem trans (a : StaysLost n s t) (b : StaysLost n t u) : StaysLost n s u where
  stations := b.stations.trans a.stations
  flight := b.flight ∘ a.flight
  entries lost := b.entries (a.station n ▸ lost) ∘ a.entries lost
  meter lost := (a.meter lost).trans (b.meter (a.station n ▸ lost))

theorem ite {c : Prop} [Decidable c] (a : StaysLost n s t) (b : StaysLost n s u) : StaysLost n s (if c then t else u) := by
  split <;> assumption

/-! ### Changes of one record -/

/-- A change that leaves the link and the metering records. -/
theorem of_same (link : t.link = s.link) (meters : t.meters = s.meters) : StaysLost n s t :=
  ⟨by rw [link], by rw [link]; exact id, fun _ => by rw [link]; exact id,
    fun _ => by rw [State.meter, State.meter, meters]; exact .refl _⟩

theorem onSpot (s : State) (k : SpotNo) (f : SpotRecord → SpotRecord) : StaysLost n s (s.onSpot k f) := of_same rfl rfl

theorem setSpot (s : State) (k : SpotNo) (r : SpotRecord) : StaysLost n s (s.setSpot k r) := of_same rfl rfl

theorem setComp (s : State) (c : Compressor) : StaysLost n s (s.setComp c) := of_same rfl rfl

theorem setTickets (s : State) (x : TicketUnit) : StaysLost n s (s.setTickets x) := of_same rfl rfl

/-- A change of a metering record that is done with its reads where the record is that of a LOST station. -/
theorem onMeter (k : SpotNo) (f : Meter → Meter)
    (done : (s.station k).status = .lost → (s.meter k).StaysDone (f (s.meter k))) : StaysLost n s (s.onMeter k f) := by
  refine ⟨rfl, id, fun _ => id, fun lost => ?_⟩
  rw [State.onMeter_eq, State.meter_setMeter]
  split
  · rename_i here
    subst here
    exact done lost
  · exact .refl _

/-! ### The link (R149, R154) -/

theorem join (e : LinkEntry) (other : (s.station n).status = .lost → e.station ≠ some n) : StaysLost n s (s.join e) := by
  refine ⟨(LinkList.join ..).stations, fun free => (Link.inFlight_join ..).trans free, fun lost clear x mem => ?_,
    fun _ => .refl _⟩
  rcases Link.station_of_mem_join mem with new | ⟨d, there, same⟩
  · exact new ▸ other lost
  · exact same ▸ clear d there

theorem judgePoll (s : State) : StaysLost n s s.judgePoll := ite (join _ fun _ => nofun) (refl _)

theorem judgePollIf (s : State) (owed : Bool) : StaysLost n s (s.judgePollIf owed) := ite (judgePoll _) (refl _)

/-- What a station that takes requests is asked for is nothing of a LOST one. -/
theorem ne_of_takes {k : SpotNo} (takes : (s.station k).status.takesRequests = true) (lost : (s.station n).status = .lost) :
    some k ≠ some n :=
  fun same => (StationStatus.takesRequests_iff.mp takes).2 (Option.some.inj same ▸ lost)

theorem request (s : State) (k : SpotNo) (x : Txn) : StaysLost n s (s.request k x) := by
  unfold State.request
  split
  · rename_i takes
    exact join _ (ne_of_takes takes)
  · exact refl _

/-- Entries of the list leave it, and the transaction in flight is at most marked. -/
theorem of_sublist {l : Link} (list : LinkList s.link l) (entries : l.entries ⊆ s.link.entries)
    (flight : s.link.inFlight = none → l.inFlight = none) : StaysLost n s (s.setLink l) :=
  ⟨list.stations, flight, fun _ clear e mem => clear e (entries mem), fun _ => .refl _⟩

theorem withdraw (s : State) (k : SpotNo) (kind : LinkKind) :
    StaysLost n s (s.setLink ((s.link.withdraw k kind).markWithdrawn k kind)) :=
  of_sublist ((LinkList.withdraw ..).trans (.markWithdrawn ..)) (List.filter_subset_self _)
    fun free => by simp [Link.markWithdrawn, Link.withdraw, free]

theorem requestClose (s : State) (k : SpotNo) : StaysLost n s (s.requestClose k) := by
  unfold State.requestClose
  split
  · rename_i takes
    exact (join (newEntry k .close) (ne_of_takes takes)).trans (withdraw (s.join (newEntry k .close)) k .valveOpen)
  · exact refl _

/-! ### Valves, shares, transitions -/

theorem driveOpen (s : State) (k : SpotNo) (v : ValveSet) : StaysLost n s (s.driveOpen k v) :=
  ite (refl _) ((onSpot ..).trans (request ..))

theorem openValves (s : State) (k : SpotNo) (v : ValveSet) : StaysLost n s (s.openValves k v) :=
  (setSpot ..).trans (driveOpen ..)

theorem closeValves (s : State) (k : SpotNo) : StaysLost n s (s.closeValves k) :=
  ite (setSpot ..) ((setSpot ..).trans (requestClose ..))

theorem abandonClosing (s : State) (k : SpotNo) : StaysLost n s (s.onMeter k Meter.abandonClosing) :=
  onMeter _ _ fun _ => ⟨id, fun _ => rfl, fun _ => rfl⟩

/-- The closing read of a LOST station is abandoned at once (R154). -/
theorem requestClosing (s : State) (k : SpotNo) : StaysLost n s (s.requestClosing k) := by
  unfold State.requestClosing
  refine ite (refl _) ?_
  split
  · exact (abandonClosing ..).trans (onSpot ..)
  · rename_i reached
    refine (onMeter k _ fun lost => absurd lost ?_).trans (request ..)
    simpa using reached

theorem purgeRest (s : State) (k : SpotNo) : StaysLost n s (s.purgeRest k) := (closeValves ..).trans (requestClosing ..)

theorem beginTransfer (s : State) (k : SpotNo) : StaysLost n s (s.beginTransfer k) :=
  ((onSpot s k (·.toTransfer s.siding.config.window)).trans (onMeter k _ fun _ => ⟨id, id, id⟩)).trans (openValves ..)

theorem enterTransfer (s : State) (k : SpotNo) : StaysLost n s (s.enterTransfer k) :=
  ite ((beginTransfer ..).trans ((onSpot ..).trans ((setComp ..).trans (purgeRest ..)))) (beginTransfer ..)

theorem grant (s : State) (e : QueueEntry) (rest : List QueueEntry) : StaysLost n s (s.grant e rest) := by
  unfold State.grant
  split
  · exact (setComp ..).trans (enterTransfer ..)
  · exact (setComp ..).trans ((onSpot ..).trans (openValves ..))

theorem examineUpTo (bound : Nat) (s : State) : StaysLost n s (State.examineUpTo bound s) := by
  induction bound generalizing s with
  | zero => exact refl _
  | succ bound ih =>
    unfold State.examineUpTo
    refine ite (refl _) ?_
    split
    · exact refl _
    · exact ite ((grant ..).trans (ih _)) (ite (setComp ..) (refl _))

theorem giveUp (s : State) (k : SpotNo) : StaysLost n s (s.giveUp k) :=
  ite ((setComp ..).trans (examineUpTo ..)) (setComp ..)

theorem enterPurge (s : State) (k : SpotNo) (reason : Option EndReason) : StaysLost n s (s.enterPurge k reason) :=
  ((onSpot ..).trans (giveUp ..)).trans (purgeRest ..)

theorem emptyToStripWait (s : State) (k : SpotNo) : StaysLost n s (s.emptyToStripWait k) :=
  (((onSpot ..).trans (giveUp ..)).trans (closeValves ..)).trans ((setComp ..).trans (examineUpTo ..))

theorem trip (s : State) (k : SpotNo) (brought : List TripCause) : StaysLost n s (s.trip k brought) := by
  unfold State.trip
  split
  · exact refl _
  · exact ((onSpot ..).trans (giveUp ..)).trans (closeValves ..)

theorem takeCauses (s : State) (k : SpotNo) (brought : List TripCause) : StaysLost n s (s.takeCauses k brought) :=
  ite (trip ..) (ite (onSpot ..) (refl _))

theorem moveOnInputs (s : State) (k : SpotNo) : StaysLost n s (s.moveOnInputs k) := by
  unfold State.moveOnInputs
  split
  · exact ite ((onSpot ..).trans (takeCauses ..)) (refl _)
  · exact ite (refl _) (onSpot ..)
  · exact refl _

theorem takeOutcome (s : State) (k : SpotNo) (r : WindowReport) : StaysLost n s (s.takeOutcome k r) := by
  unfold State.takeOutcome
  split
  · exact enterPurge ..
  · exact ite (emptyToStripWait ..) (enterPurge ..)
  · exact (onSpot ..).trans (enterPurge ..)
  · exact refl _

theorem takeStationEvent (s old : State) (k : SpotNo) (extra : List TripCause) (r : Option WindowReport) :
    StaysLost n s (s.takeStationEvent old k extra r) := by
  have moved := (takeCauses (n := n) s k (causeUnion (s.risen old k) extra)).trans (moveOnInputs _ k)
  cases r with
  | none => exact moved
  | some report => exact moved.trans (takeOutcome ..)

/-! ### Tickets and strokes -/

theorem endPurge (s : State) (k : SpotNo) : StaysLost n s (s.endPurge k) := by
  unfold State.endPurge
  dsimp only
  split
  · exact ((setTickets ..).trans (onSpot ..)).trans (ite (ite (onSpot ..) (onSpot ..)) (onSpot ..))
  · exact refl _

theorem settleClosing (s : State) (k : SpotNo) : StaysLost n s (s.settleClosing k) :=
  ite ((onSpot ..).trans (endPurge ..)) (onSpot ..)

theorem abortStrokeOn (s : State) (k : SpotNo) : StaysLost n s (s.abortStrokeOn k) := by
  unfold State.abortStrokeOn State.abortStroke
  refine ite ?_ (refl _)
  split
  · exact refl _
  · rename_i x _
    have recorded : StaysLost n s
        ((s.setProofRecord x.valve { s.proofRecord x.valve with lastResult := some .aborted }).setStroke none) :=
      of_same rfl rfl
    exact (recorded.trans (withdraw _ (valveSpot x.valve) .stroke)).trans
      (onSpot _ (valveSpot x.valve) (·.setValve (valveSideOf x.valve) .closed))

end StaysLost

end Sys2Proof.Machine
end

section
/-! SUPPORT. Misses on the spot link: one or two send the transaction again, the third, or one of a LOST station, disposes of
everything of the station (R151, R153, R154). -/

namespace Sys2Proof.Machine

namespace State

variable {s old : State} {f : InFlight} {n : SpotNo} {txn : Txn}

/-! ## One miss or two (R151) -/

theorem dealsAgain_missed (awaits : Awaits s f n txn) (reached : (s.station n).status ≠ .lost) (few : (s.station n).misses < 2) :
    DealsAgain s (s.hears n { s.station n with misses := (s.station n).misses + 1 }) (s.freeLink.missed s n f) f n txn := by
  set b := s.hears n { s.station n with misses := (s.station n).misses + 1 } with hb
  have station : b.station n = { s.station n with misses := (s.station n).misses + 1 } := station_setStation_self ..
  have again : s.freeLink.missed s n f = (b.dealAgain n f).1.takeStationEvent s n
      (reportCauses (s.spot n).state (b.dealAgain n f).2) (b.dealAgain n f).2 := by
    have here : s.freeLink.station n = s.station n := rfl
    rw [missed, here, if_neg (by simpa using reached), if_neg (by omega)]
    rfl
  rw [again]
  exact dealsAgain awaits (causesRisen_calm (by rw [station]) (.inl (by rw [station])) rfl) rfl rfl rfl

/-! ## A LOST station is disposed of (R154) -/

/-- The station record of a LOST station (R154). -/
def lostRecord (t : Station) : Station := { t with status := .lost, misses := 3, recovery := .running 1000 }

/-- The third miss, and a miss of a LOST station, dispose of everything of the station. -/
theorem missed_eq_dispose (many : (s.station n).status = .lost ∨ 2 ≤ (s.station n).misses) :
    s.freeLink.missed s n f = (s.hears n (lostRecord (s.station n))).dispose s n [f.entry] := by
  have here : s.freeLink.station n = s.station n := rfl
  rw [missed, here]
  by_cases lost : (s.station n).status = .lost
  · have same : lostRecord (s.station n) = { s.station n with misses := 3, recovery := .running 1000 } := by
      rw [lostRecord, ← lost]
    rw [if_pos (by simp [lost]), same]
    rfl
  · rw [if_neg (by simpa using lost), if_pos (by have := many.resolve_left lost; omega)]
    rfl

/-- What a spot's transactions are, when they are disposed of: the one that missed and those pending. -/
def disposedOf (s : State) (n : SpotNo) (missed : List LinkEntry) : List LinkEntry :=
  missed ++ s.link.entries.filter fun e => e.station == some n

/-- Nothing of a station is left in the pending list. -/
def cleared (s : State) (n : SpotNo) : State :=
  s.setLink { s.link with entries := s.link.entries.filter fun e => e.station != some n }

/-- The metering engine's part: a window read completes as a miss, a closing read is abandoned. -/
theorem meters_dispose (s : State) (n : SpotNo) (window closing : Bool) : ∃ m,
    (if closing then (s.missWindowIf n window).1.onMeter n Meter.abandonClosing else (s.missWindowIf n window).1) =
        s.setMeter n m
      ∧ (window = true → m.windowRead = none)
      ∧ (closing = true → m.closingRequest = false ∧ m.flags.pulsesUnread = true) := by
  have missed : ∃ m, (s.missWindowIf n window).1 = s.setMeter n m ∧ (window = true → m.windowRead = none) := by
    unfold missWindowIf
    cases window with
    | false => exact ⟨s.meter n, (setMeter_meter ..).symm, nofun⟩
    | true =>
      rw [if_pos rfl]
      cases read : (s.meter n).windowRead with
      | none => exact ⟨s.meter n, by rw [missWindow_of_none read, setMeter_meter], fun _ => read⟩
      | some w =>
        exact ⟨_, by rw [missWindow_of_some read], fun _ => Meter.windowRead_computeWindow ..⟩
  obtain ⟨m, is, none⟩ := missed
  rw [is]
  cases closing with
  | false => exact ⟨m, rfl, none, nofun⟩
  | true => exact ⟨m.abandonClosing, by simp [setMeter_setMeter], none, fun _ => ⟨rfl, rfl⟩⟩

/-- The end of disposing, after the sequencer's part: an abandoned closing read settles, and R162 is judged where that is owed
(R23, R162). -/
def concluded (v : State) (n : SpotNo) (abandoned owed : Bool) : State :=
  (if abandoned then v.settleClosing n else v).judgePollIf owed

/-- All that disposing is: the list is cleared, the metering engine has its part, a stroke is ABORTED, the sequencer takes
the event, and what is owed is concluded. -/
theorem dispose_eq (s old : State) (n : SpotNo) (missed : List LinkEntry) :
    ∃ m extra report, ∃ abandoned owed : Bool,
    s.dispose old n missed =
        ((((s.cleared n).setMeter n m).abortStrokeOn n).takeStationEvent old n extra report).concluded n abandoned owed
      ∧ extra = reportCauses (old.spot n).state report
      ∧ (anyWindow (s.disposedOf n missed) = true → m.windowRead = none)
      ∧ (anyClosing (s.disposedOf n missed) = true → (s.meter n).closingRequest = true →
          m.closingRequest = false ∧ m.flags.pulsesUnread = true) := by
  obtain ⟨m, is, window, closing⟩ := (s.cleared n).meters_dispose n (anyWindow (s.disposedOf n missed))
    (anyClosing (s.disposedOf n missed) && (s.meter n).closingRequest)
  refine ⟨m, _, ((s.cleared n).missWindowIf n (anyWindow (s.disposedOf n missed))).2,
    anyClosing (s.disposedOf n missed) && (s.meter n).closingRequest,
    (s.disposedOf n missed).any fun e => e.txn.holdsPoll, ?_, rfl, window, fun any one => closing (by simp [any, one])⟩
  rw [← is]
  rfl

/-! ## The closing read settles (R23) -/

theorem proof_endPurge (s : State) (n : SpotNo) : (s.endPurge n).proof = s.proof := by
  unfold endPurge
  dsimp only
  split
  · split
    · exact (Course.enterComplete ..).proof
    · rfl
  · rfl

theorem proof_settleClosing (s : State) (n : SpotNo) : (s.settleClosing n).proof = s.proof := by
  rw [settleClosing_eq]
  split
  · exact proof_endPurge ..
  · rfl

/-- A TRIPPED spot is left with its closing read settled, and no more. -/
theorem settleClosing_of_tripped (tripped : (s.spot n).state = .tripped) :
    s.settleClosing n = s.setSpot n { s.spot n with closingRead := .settled } := by
  rw [settleClosing_eq, if_neg (by simp [tripped])]

/-! ## What is left of a LOST station (R154) -/

/-- What disposing of everything of a LOST station leaves. -/
structure Disposed (s u : State) (n : SpotNo) (missed : List LinkEntry) : Prop where
  station : ∀ k, u.station k = s.station k
  entries : ∀ e ∈ u.link.entries, e.station ≠ some n
  flight : s.link.inFlight = none → u.link.inFlight = none
  window : anyWindow (s.disposedOf n missed) = true → (u.meter n).windowRead = none
  closing : anyClosing (s.disposedOf n missed) = true → (s.meter n).closingRequest = true →
    (u.meter n).closingRequest = false ∧ (u.meter n).flags.pulsesUnread = true
  noStroke : u.strokeOn n = false
  aborted : ∀ k, s.proof.stroke = some k → k.valve.val / 2 = n.val →
    u.proofRecord k.valve = { s.proofRecord k.valve with lastResult := some .aborted }

theorem disposed_dispose (lost : (s.station n).status = .lost) (missed : List LinkEntry) :
    Disposed s (s.dispose old n missed) n missed := by
  obtain ⟨m, extra, report, abandoned, owed, is, -, window, closing⟩ := s.dispose_eq old n missed
  rw [is]
  set metered := (s.cleared n).setMeter n m
  have abort : StrokeAbortedOn metered (metered.abortStrokeOn n) n := aborted_abortStrokeOn ..
  set v := (metered.abortStrokeOn n).takeStationEvent old n extra report
  set u := v.concluded n abandoned owed with hu
  have stays : StaysLost n metered u :=
    ((StaysLost.abortStrokeOn ..).trans (.takeStationEvent ..)).trans
      ((StaysLost.ite (.settleClosing ..) (.refl _)).trans (.judgePollIf ..))
  have still : metered.station n = s.station n := rfl
  have done : (metered.meter n).StaysDone (u.meter n) := stays.meter (still ▸ lost)
  have record : metered.meter n = m := meter_setMeter_self ..
  rw [record] at done
  have proof : u.proof = (metered.abortStrokeOn n).proof := by
    have taken : v.proof = (metered.abortStrokeOn n).proof := (Course.takeStationEvent ..).proof
    rw [hu, concluded, (Course.judgePollIf _ _).proof]
    split
    · exact (proof_settleClosing ..).trans taken
    · exact taken
  refine ⟨stays.station, stays.entries (still ▸ lost) fun e mem => ?_, stays.flight, done.window ∘ window,
    fun any one => ?_, ?_, fun k flying here => ?_⟩
  · simpa using (List.mem_filter.mp mem).2
  · obtain ⟨none, unread⟩ := closing any one
    exact ⟨done.closing none, done.unread unread⟩
  · rw [← abort.noStroke, strokeOn, strokeOn, proof]
  · rw [proofRecord, proof]
    exact (abort.aborted k flying here).2.1

/-- Causes that are STATION_LOST, and at most SENSOR_FAULT with it, come with STATION_LOST first (R107). -/
theorem stationLost_first {p : TripCause → Bool} (lost : p .stationLost = true) (esd : p .esd = false) (gas : p .gas = false)
    (stop : p .sidingStop = false) (bond : p .bondLost = false) (arms : p .armsLost = false) :
    ∃ rest, TripCause.all.filter p = .stationLost :: rest := by
  refine ⟨[TripCause.stationLocal, .valveFault, .overpressure, .sensorFault].filter p, ?_⟩
  rw [TripCause.all, List.filter_cons_of_neg, List.filter_cons_of_neg, List.filter_cons_of_neg, List.filter_cons_of_neg,
    List.filter_cons_of_neg, List.filter_cons_of_pos lost]
  all_goals simp [esd, gas, stop, bond, arms]

/-- An armed spot trips on STATION_LOST when its station becomes LOST (R108, R113). -/
theorem trips_dispose (armed : (old.spot n).state.armed = true) (reached : (old.station n).status ≠ .lost)
    (lost : s.station n = lostRecord (old.station n)) (spot : s.spot n = old.spot n) (siding : s.siding = old.siding)
    (missed : List LinkEntry) :
    ((s.dispose old n missed).spot n).state = .tripped
      ∧ ∃ c, ((s.dispose old n missed).spot n).trip = some c ∧ c.firstOut = .stationLost ∧ .stationLost ∈ c.causes := by
  obtain ⟨m, extra, report, abandoned, owed, is, causes, -, -⟩ := s.dispose_eq old n missed
  rw [is]
  set metered := (s.cleared n).setMeter n m
  have abort : StrokeAbortedOn metered (metered.abortStrokeOn n) n := aborted_abortStrokeOn ..
  set b := metered.abortStrokeOn n
  have station : b.station n = lostRecord (old.station n) := abort.station.trans lost
  have level (c : TripCause) : (c ∈ b.risen old n ∨ c ∈ extra) ↔ c = .stationLost ∨ c ∈ extra := by
    refine or_congr_left ?_
    simp only [risen, List.mem_filter]
    cases c <;> simp [TripCause.all, levelCondition, station, lostRecord, reached, abort.event.siding,
      show metered.siding = old.siding from siding]
  have extras (c : TripCause) (mem : c ∈ extra) : c = .sensorFault := (mem_reportCauses.mp (causes ▸ mem)).1
  have only (c : TripCause) (other : c ≠ .stationLost ∧ c ≠ .sensorFault) :
      decide (c ∈ b.risen old n ∨ c ∈ extra) = false :=
    decide_eq_false fun mem => ((level c).mp mem).elim other.1 (other.2 ∘ extras c)
  obtain ⟨rest, brought⟩ : ∃ rest, causeUnion (b.risen old n) extra = .stationLost :: rest := by
    rw [causeUnion_eq]
    refine stationLost_first (decide_eq_true ((level _).mpr (.inl rfl))) ?_ ?_ ?_ ?_ ?_
    all_goals exact only _ (by decide)
  have takes := takes_takeStationEvent b n old extra
  have trips := takes.trips (by rw [abort.state, show metered.spot n = old.spot n from spot]; exact armed) _ rest brought
  set v := b.takeStationEvent old n extra none
  have event : b.takeStationEvent old n extra report = v := by
    cases report with
    | none => rfl
    | some r =>
      rw [takeStationEvent_report]
      exact (outcome_takeOutcome v n r).still (by simp [trips.state]) (by simp [trips.state])
  have kept : ((v.concluded n abandoned owed).spot n).state = (v.spot n).state
      ∧ ((v.concluded n abandoned owed).spot n).trip = (v.spot n).trip := by
    rw [concluded, spot_judgePollIf]
    split
    · rw [settleClosing_of_tripped trips.state, spot_setSpot_self]
      exact ⟨rfl, rfl⟩
    · exact ⟨rfl, rfl⟩
  rw [event, kept.1, kept.2]
  refine ⟨trips.state, _, trips.trip, rfl, List.mem_filter.mpr ⟨by decide, ?_⟩⟩
  simp [brought]

end State

/-- Settles O47: nothing in flight, a poll and a dropped transaction first; then the misses that send it again, and those that
leave nothing of the station. -/
theorem missesAreCounted : Obligations.MissesAreCounted := by
  unfold Obligations.MissesAreCounted
  intro s
  refine ⟨fun idle => ?_, fun f flying => ⟨fun poll => ?_, fun n station dropped => ?_, fun n txn awaits => ⟨?_, ?_⟩⟩⟩
  · show execSpotLinkMiss s = _
    simp only [execSpotLinkMiss, idle]
  · show execSpotLinkMiss s = _
    simp only [execSpotLinkMiss, flying, poll]
  · exact State.exec_miss_dropped flying station dropped
  · intro reached few
    have deals := State.dealsAgain_missed awaits reached few
    rw [State.exec_miss awaits]
    refine ⟨fun other => ⟨_, rfl, deals.other other⟩, fun marks read => ?_⟩
    intro c
    refine ⟨fun without => ⟨_, rfl, deals.read marks read without⟩, fun w marked outstanding => ?_⟩
    obtain ⟨m, takes, outcome⟩ := deals.window marks w read marked outstanding
    exact ⟨m, _, rfl, takes, outcome⟩
  · intro many mine
    set lost := s.hears n (State.lostRecord (s.station n))
    have station : lost.station n = State.lostRecord (s.station n) := State.station_setStation_self ..
    have disposes : exec .spotLinkMiss s = .next (lost.dispose s n [f.entry]) := by
      rw [State.exec_miss awaits, State.missed_eq_dispose many]
    have disposed : State.Disposed lost (lost.dispose s n [f.entry]) n [f.entry] :=
      State.disposed_dispose (by rw [station]; rfl) _
    have all : lost.disposedOf n [f.entry] = mine := by
      simp only [State.disposedOf, List.singleton_append, mine, List.cons.injEq, true_and]
      exact List.filter_congr fun e _ => Bool.beq_eq_decide_eq ..
    have window (any : ∃ e ∈ mine, e.txn.marks.window ≠ none) : anyWindow (lost.disposedOf n [f.entry]) = true := by
      rw [all]
      simpa [anyWindow, Option.isSome_iff_ne_none] using any
    have closing (any : ∃ e ∈ mine, e.txn.marks.closing = true) : anyClosing (lost.disposedOf n [f.entry]) = true := by
      rw [all]
      exact List.any_eq_true.mpr any
    refine ⟨_, disposes, (disposed.station n).trans station, fun k other => ?_, disposed.entries, disposed.flight rfl,
      disposed.window ∘ window, disposed.closing ∘ closing, disposed.noStroke, disposed.aborted, fun reached armed => ?_, ?_⟩
    · rw [disposed.station]
      exact (State.station_setStation ..).trans (if_neg other)
    · exact State.trips_dispose armed reached station rfl rfl _
    · exact ((Event.freeLink s).trans (.setStation ..)).trans (.dispose ..)

end Sys2Proof.Machine
end

section
/-! SUPPORT. The supervisory line unit (chapter 10): its four events by state (R185), the checks of a frame (R186), and a frame
received whole. -/

namespace Sys2Proof.Machine

namespace LineUnit

variable {l : LineUnit} {b : Byte} {buffer : List Byte}

/-! ## The table of R185 -/

theorem take_of_hunt (hunt : l.mode = .hunt) (b : Byte) : l.take b = { l with gap := .running 20 } := by
  simp [take, hunt]

theorem take_lead (listen : l.mode = .listen) :
    l.take 0xC3#8 = { l with mode := .receiving, buffer := [0xC3#8], gap := .running 20 } := by simp [take, listen]

theorem take_of_listen (listen : l.mode = .listen) (other : b ≠ 0xC3#8) : l.take b = l := by
  simp [take, listen, other]

theorem take_of_receiving (receiving : l.mode = .receiving) (b : Byte) : l.take b = l.check (l.buffer ++ [b]) := by
  simp [take, receiving]

theorem take_of_answering (answering : l.mode = .answering) (b : Byte) : l.take b = { l with discardNoted := true } := by
  simp [take, answering]

theorem framingError_of_hunt (hunt : l.mode = .hunt) : l.framingError = { l with gap := .running 20 } := by
  simp [framingError, hunt]

theorem framingError_of_listen (listen : l.mode = .listen) : l.framingError = l := by simp [framingError, listen]

theorem framingError_of_answering (answering : l.mode = .answering) : l.framingError = { l with discardNoted := true } := by
  simp [framingError, answering]

theorem framingError_of_receiving (receiving : l.mode = .receiving) : l.framingError = l.enterHunt := by
  simp [framingError, receiving]

theorem gapExpiry_of_hunt (running : l.gap.isRunning = true) (hunt : l.mode = .hunt) : l.gapExpiry = l.enterListen := by
  cases gap : l.gap <;> simp_all [gapExpiry, Timer.isRunning]

theorem gapExpiry_of_receiving (running : l.gap.isRunning = true) (receiving : l.mode = .receiving) :
    l.gapExpiry = l.enterHunt := by
  cases gap : l.gap <;> simp_all [gapExpiry, Timer.isRunning]

theorem replySent_of_reply (answering : l.mode = .answering) (reply : l.reply ≠ none) :
    l.replySent = { (if l.discardNoted then l.enterHunt else l.enterListen) with reply := none } := by
  obtain ⟨r, there⟩ := Option.ne_none_iff_exists'.mp reply
  simp only [replySent, answering, there]
  split <;> rfl

/-! ## The checks of R186 -/

/-- A frame of which bytes are still to come: nothing is wrong with it yet. -/
def InPart (buffer : List Byte) : Prop :=
  buffer.length < 3 ∨ (2 ≤ num2 buffer 1 ∧ num2 buffer 1 ≤ 1025 ∧ buffer.length < num2 buffer 1 + 5)

/-- As many bytes as a permitted length field asks for. -/
structure Complete (buffer : List Byte) : Prop where
  low : 2 ≤ num2 buffer 1
  high : num2 buffer 1 ≤ 1025
  all : num2 buffer 1 + 5 ≤ buffer.length

theorem check_part (part : InPart buffer) : l.check buffer = { l with buffer := buffer, gap := .running 20 } := by
  unfold check
  obtain short | ⟨low, high, more⟩ := part
  · exact if_pos short
  · simp [inRange, low, high, more]

theorem check_length (there : 3 ≤ buffer.length) (bad : num2 buffer 1 < 2 ∨ 1025 < num2 buffer 1) :
    l.check buffer = l.enterHunt := by
  have outside : inRange 2 1025 (num2 buffer 1) = false := by
    rw [Bool.eq_false_iff, Ne, inRange_iff]
    omega
  unfold check
  rw [if_neg (by omega), outside]
  rfl

/-- A whole frame is a request where its CRC checks. -/
theorem check_whole (c : Complete buffer) (checks : lineCrcChecks buffer = true) :
    l.check buffer = l.enterAnswering (requestIn buffer (num2 buffer 1)) := by
  obtain ⟨low, high, all⟩ := c
  unfold check
  rw [if_neg (by omega), (inRange_iff ..).mpr ⟨low, high⟩, if_neg (by simp), if_neg (by omega), if_pos checks]

theorem check_crc (c : Complete buffer) (fails : ¬lineCrcChecks buffer = true) : l.check buffer = l.enterHunt := by
  obtain ⟨low, high, all⟩ := c
  unfold check
  rw [if_neg (by omega), (inRange_iff ..).mpr ⟨low, high⟩, if_neg (by simp), if_neg (by omega), if_neg fails]

end LineUnit

/-! ## The line unit's events -/

section
variable {s : State} {t : LineUnit}

theorem exec_lineByte {b : Byte} (takes : s.line.take b = t) : exec (.lineByteReceived b) s = .next { s with line := t } :=
  takes ▸ rfl

theorem exec_framingError (takes : s.line.framingError = t) : exec .lineFramingError s = .next { s with line := t } :=
  takes ▸ rfl

theorem exec_gapExpiry (takes : s.line.gapExpiry = t) : exec .gapTimerExpiry s = .next { s with line := t } := takes ▸ rfl

theorem exec_replySent (takes : s.line.replySent = t) : exec .replyLastByteSent s = .next { s with line := t } := takes ▸ rfl

end

/-- Settles O5: each clause is the entry of R185's table for its state. -/
theorem lineUnitTakesItsEvents : Obligations.LineUnitTakesItsEvents := by
  unfold Obligations.LineUnitTakesItsEvents
  intro b s
  refine ⟨fun hunt => ?_, fun listen => ?_, fun answering => ?_, fun receiving => ?_, fun running => ⟨fun hunt => ?_,
    fun receiving => ?_⟩, fun answering reply => ?_⟩
  · exact ⟨exec_lineByte (LineUnit.take_of_hunt hunt b), exec_framingError (LineUnit.framingError_of_hunt hunt)⟩
  · exact ⟨exec_lineByte (LineUnit.take_lead listen), fun other => exec_lineByte (LineUnit.take_of_listen listen other),
      exec_framingError (LineUnit.framingError_of_listen listen)⟩
  · exact ⟨exec_lineByte (LineUnit.take_of_answering answering b), exec_framingError (LineUnit.framingError_of_answering answering)⟩
  · exact ⟨_, exec_framingError (LineUnit.framingError_of_receiving receiving), rfl, rfl, rfl, rfl⟩
  · exact ⟨_, exec_gapExpiry (LineUnit.gapExpiry_of_hunt running hunt), rfl, rfl, rfl, rfl⟩
  · exact ⟨_, exec_gapExpiry (LineUnit.gapExpiry_of_receiving running receiving), rfl, rfl, rfl, rfl⟩
  · refine ⟨_, exec_replySent (LineUnit.replySent_of_reply answering reply), rfl, ?_, fun noted => ?_, fun noted => ?_⟩
    · exact (apply_ite LineUnit.rate ..).trans (ite_self _)
    · rw [noted]
      exact ⟨rfl, rfl⟩
    · rw [noted]
      exact ⟨rfl, rfl⟩

/-- Settles O6: a frame in part, a length field out of range, and a whole frame judged by its CRC. -/
theorem framesAreChecked : Obligations.FramesAreChecked := by
  unfold Obligations.FramesAreChecked
  intro b s receiving bytes length covered received
  have takes {t : LineUnit} (checks : s.line.check bytes = t) :
      exec (.lineByteReceived b) s = .next { s with line := t } :=
    exec_lineByte ((LineUnit.take_of_receiving receiving b).trans checks)
  have crc (all : length + 5 ≤ bytes.length) : lineCrcChecks bytes = true ↔ (crc16 covered).toNat = received := by
    rw [lineCrcChecks, beq_iff_eq, num2, show bytes.length - 2 + 1 = bytes.length - 1 by omega]
    rfl
  refine ⟨fun part => takes (LineUnit.check_part part), fun ⟨there, bad⟩ => ?_, fun ⟨low, high, all, wrong⟩ => ?_,
    fun ⟨low, high, all, right⟩ => ?_⟩
  · exact ⟨_, takes (LineUnit.check_length there bad), rfl, rfl, rfl, rfl⟩
  · exact ⟨_, takes (LineUnit.check_crc ⟨low, high, all⟩ (wrong ∘ (crc all).mp)), rfl, rfl, rfl, rfl⟩
  · exact ⟨_, takes (LineUnit.check_whole ⟨low, high, all⟩ ((crc all).mpr right)), rfl, rfl, rfl, rfl, rfl⟩

/-! ## A frame received byte by byte (R183 to R186) -/

theorem num2_append_left (a b : List Byte) {off : Nat} (room : off + 1 < a.length) : num2 (a ++ b) off = num2 a off := by
  simp only [num2, num1, byteAt]
  rw [List.getD_append _ _ _ _ (by omega), List.getD_append _ _ _ _ room]

theorem num2_append_right (a b : List Byte) (off : Nat) : num2 (a ++ b) (a.length + off) = num2 b off := by
  simp only [num2, num1, byteAt]
  rw [List.getD_append_right _ _ _ _ (by omega), List.getD_append_right _ _ _ _ (by omega), Nat.add_sub_cancel_left,
    Nat.add_assoc, Nat.add_sub_cancel_left]

/-- The CRC that is sent with the bytes it covers checks (R184). -/
theorem lineCrcChecks_frame (lead : Byte) (covered : List Byte) :
    lineCrcChecks (lead :: covered ++ leBytes 2 (crc16 covered).toNat) = true := by
  have bytes : (lead :: covered ++ leBytes 2 (crc16 covered).toNat).length = covered.length + 3 := by
    simp [length_leBytes]
  have body : ((lead :: covered ++ leBytes 2 (crc16 covered).toNat).drop 1).take covered.length = covered := List.take_left
  rw [lineCrcChecks, beq_iff_eq, bytes, Nat.add_sub_cancel, body]
  exact ((num2_append_right (lead :: covered) _ 0).trans (num2_leBytes (crc16 covered).isLt)).symm

namespace LineUnit

/-- The line unit with the first bytes of a frame in its buffer. -/
def receives (l : LineUnit) (buffer : List Byte) : LineUnit :=
  { l with mode := .receiving, buffer := buffer, gap := .running 20 }

theorem InPart.of_append {a b : List Byte} (part : InPart (a ++ b)) : InPart a := by
  by_cases short : a.length < 3
  · exact .inl short
  · unfold InPart at part ⊢
    rw [num2_append_left a b (by omega), List.length_append] at part
    omega

/-- The bytes of a frame are kept as long as some are still to come. -/
theorem foldl_take_part (l : LineUnit) {buffer bytes : List Byte} (part : InPart (buffer ++ bytes)) :
    bytes.foldl take (l.receives buffer) = l.receives (buffer ++ bytes) := by
  induction bytes generalizing buffer with
  | nil => simp
  | cons b bytes ih =>
    rw [List.append_cons] at part ⊢
    have kept : (l.receives buffer).take b = l.receives (buffer ++ [b]) :=
      (take_of_receiving rfl b).trans (check_part part.of_append)
    rw [List.foldl_cons, kept, ih part]

/-- With its last byte a whole frame becomes a request. -/
theorem foldl_take_frame {l : LineUnit} (listen : l.mode = .listen) {bytes : List Byte} {last : Byte}
    (whole : Complete (0xC3#8 :: bytes ++ [last])) (size : bytes.length + 2 = num2 (0xC3#8 :: bytes ++ [last]) 1 + 5)
    (checks : lineCrcChecks (0xC3#8 :: bytes ++ [last]) = true) :
    (0xC3#8 :: bytes ++ [last]).foldl take l = (l.receives (0xC3#8 :: bytes)).enterAnswering
      (requestIn (0xC3#8 :: bytes ++ [last]) (num2 (0xC3#8 :: bytes ++ [last]) 1)) := by
  have part : InPart ([0xC3#8] ++ bytes) := by
    obtain ⟨low, high, -⟩ := whole
    have field : num2 (0xC3#8 :: bytes ++ [last]) 1 = num2 (0xC3#8 :: bytes) 1 :=
      num2_append_left _ _ (by rw [List.length_cons]; omega)
    rw [field] at low high size
    exact .inr ⟨low, high, by rw [List.singleton_append, List.length_cons]; omega⟩
  have lead : l.take 0xC3#8 = l.receives [0xC3#8] := take_lead listen
  have kept : (0xC3#8 :: bytes).foldl take l = l.receives (0xC3#8 :: bytes) :=
    (congrArg (bytes.foldl take) lead).trans (foldl_take_part l part)
  have ends : (l.receives (0xC3#8 :: bytes)).take last = (l.receives (0xC3#8 :: bytes)).check (0xC3#8 :: bytes ++ [last]) :=
    take_of_receiving rfl last
  rw [List.foldl_append, kept, List.foldl_cons, List.foldl_nil, ends, check_whole whole checks]

end LineUnit

/-- Line bytes that wait in the queue go to the line unit one after the other. -/
theorem run_lineBytes (bytes : List Byte) (s : State) :
    Host.Core.run core bytes.length { s with pending := bytes.map Instr.lineByteReceived } =
      .next { s with pending := [], line := bytes.foldl LineUnit.take s.line } := by
  induction bytes generalizing s with
  | nil => rfl
  | cons b bytes ih => exact ih (s.setLine (s.line.take b))

section
variable (code tag : Byte) (body : List Byte)

theorem length_lineFrame : (lineFrame code tag body).length = body.length + 7 := by
  simp [lineFrame, length_leBytes]
  omega

theorem num2_lineFrame (fits : body.length ≤ 1023) : num2 (lineFrame code tag body) 1 = body.length + 2 :=
  num2_leBytes (by omega)

/-- Code, tag and body stand in the frame where the line unit reads them (R183). -/
theorem requestIn_lineFrame : requestIn (lineFrame code tag body) (body.length + 2) = requestOf code tag body :=
  congrArg (requestOf code tag) List.take_left

end

/-- Settles O7: every byte but the last leaves a frame in part, and the whole frame's length field and CRC check. -/
theorem frameRoundTrip : Obligations.FrameRoundTrip := by
  unfold Obligations.FrameRoundTrip
  intro code tag body s fits listen
  have field := num2_lineFrame code tag body fits
  have length := length_lineFrame code tag body
  have request := requestIn_lineFrame code tag body
  have checks : lineCrcChecks (lineFrame code tag body) = true := lineCrcChecks_frame _ _
  obtain ⟨bytes, last, cut⟩ : ∃ bytes last, lineFrame code tag body = 0xC3#8 :: bytes ++ [last] :=
    ⟨_, _, List.append_cons _ _ _⟩
  refine ⟨_, length ▸ run_lineBytes (lineFrame code tag body) s, ?_⟩
  rw [cut] at field length request checks ⊢
  rw [LineUnit.foldl_take_frame listen ⟨by omega, by omega, by omega⟩ (by rw [field]; simpa using length) checks, field, request]
  exact ⟨rfl, rfl, rfl⟩

end Sys2Proof.Machine
end

section
/-! SUPPORT. Requests and their replies (chapter 10): the code and the body length are judged first (R186, R190), and every
request is answered once (R187 to R189). -/

namespace Sys2Proof.Machine

/-! ## The request table (R190) -/

/-- The row of R190 for a code: the body length, and what the request's owner makes of the body. A code outside the table
has no row; what stands for it here is not reached. -/
def requestRow (body : List Byte) : Nat → Nat × (State → Verdict)
  | 1 => (24, State.addCar body)
  | 2 => (13, State.withdrawCar body)
  | 3 => (14, State.moveCar body)
  | 4 => (0, State.listCars)
  | 5 => (15, State.forSpot body (State.assign body))
  | 6 => (1, State.forSpot body State.release)
  | 7 => (2, State.forSpot body (State.start body))
  | 8 => (1, State.forSpot body State.hold)
  | 9 => (1, State.forSpot body State.resume)
  | 10 => (1, State.forSpot body State.stop)
  | 11 => (1, State.forSpot body State.resetTrip)
  | 12 => (5, State.forSpot body (State.overrideBypass body))
  | 13 => (24, State.forSpot body (State.configure body))
  | 14 => (2, State.readSpots body)
  | 15 => (gradeLoadLength body, State.loadGrade body)
  | 16 => (1, State.readGrade body)
  | 17 => (9, State.configureSiding body)
  | 18 => (1, State.setMode body)
  | 19 => (1, State.requestProof body)
  | 20 => (0, fun s => ⟨.ok, s.proofResult, s⟩)
  | 21 => (0, State.readTicket)
  | 22 => (4, State.releaseTicket body)
  | 23 => (0, fun s => ⟨.ok, s.statusResult, s⟩)
  | 24 => (0, State.takeRestart)
  | _ => (0, fun s => s.refuse .unsupported)

section
variable {code : Byte} (tag : Byte) (body : List Byte) (s : State)

theorem isRequestCode_iff : isRequestCode code = true ↔ 1 ≤ code.toNat ∧ code.toNat ≤ 24 := by simp [isRequestCode]

/-- A request of the table is served by the row of its code. -/
theorem exec_requestOf (inTable : isRequestCode code = true) : exec (requestOf code tag body) s =
    .next (s.serve code tag body (requestRow body code.toNat).1 (requestRow body code.toNat).2) := by
  obtain ⟨low, high⟩ := isRequestCode_iff.mp inTable
  obtain ⟨k, above, below, rfl⟩ : ∃ k, 1 ≤ k ∧ k ≤ 24 ∧ code = BitVec.ofNat 8 k := ⟨code.toNat, low, high, by simp⟩
  interval_cases k
  all_goals rfl

theorem requestOf_outside (outside : ¬isRequestCode code = true) :
    requestOf code tag body = .unsupportedRequest code tag body := by
  rw [isRequestCode_iff] at outside
  unfold requestOf
  split
  case h_25 => rfl
  all_goals omega

theorem exec_unsupported (outside : ¬isRequestCode code = true) :
    exec (.unsupportedRequest code tag body) s = .next (s.answer code tag .unsupported []) := if_neg outside

/-- UNSUPPORTED_REQUEST with a code of the table is no event (log 17). -/
theorem exec_unsupported_inTable (inTable : isRequestCode code = true) :
    exec (.unsupportedRequest code tag body) s = .fault .notThisCommand := if_pos inTable

theorem State.serve_length {length : Nat} {owner : State → Verdict} (wrong : body.length ≠ length) :
    s.serve code tag body length owner = s.answer code tag .length [] := if_neg wrong

end

/-- Settles O8: a code of the table has a row, whose length is judged before its owner sees the body. -/
theorem codeAndLengthAreJudgedFirst : Obligations.CodeAndLengthAreJudgedFirst := by
  unfold Obligations.CodeAndLengthAreJudgedFirst
  intro tag body s
  refine ⟨fun row mem => ?_, fun code outside => ?_⟩
  · have inRow : isRequestCode row.1 = true ∧ (requestRow body row.1.toNat).1 = row.2 := by
      fin_cases mem
      all_goals exact ⟨rfl, rfl⟩
    obtain ⟨inTable, length⟩ := inRow
    refine ⟨fun wrong => ?_, exec_unsupported_inTable tag body s inTable⟩
    rw [exec_requestOf tag body s inTable, State.serve_length tag body s (length ▸ wrong)]
  · have out : ¬isRequestCode code = true := by rw [isRequestCode_iff]; omega
    exact ⟨requestOf_outside tag body out, exec_unsupported tag body s out⟩

/-! ## What an owner may do (R187, R188) -/

namespace Course

theorem stopLiquid (s : State) (n : SpotNo) : Course s (s.stopLiquid n) :=
  ite ((onSpot ..).trans (giveUp ..)) (enterPurge ..)

theorem leaveTripped (s : State) (n : SpotNo) : Course s (s.leaveTripped n) :=
  (onSpot ..).trans (ite (enterPurge ..) (ite (onSpot ..) (onSpot ..)))

end Course

/-- A verdict on a request in `s` leaves the line unit, and a refusal leaves every block. -/
structure Verdict.Proper (s : State) (v : Verdict) : Prop where
  line : v.state.line = s.line
  refused : v.status ≠ .ok → v.state = s

namespace Verdict.Proper

variable {s t : State} {result : List Byte} {n : SpotNo}

theorem refuse (s : State) (status : Status) (result : List Byte) : Proper s (s.refuse status result) := ⟨rfl, fun _ => rfl⟩

theorem ok (line : t.line = s.line) : Proper s ⟨.ok, result, t⟩ := ⟨line, fun no => absurd rfl no⟩

theorem ite {c : Prop} [Decidable c] {v w : Verdict} (a : Proper s v) (b : Proper s w) : Proper s (if c then v else w) := by
  split <;> assumption

/-! ### The manifest unit -/

theorem addCar (body : List Byte) : Proper s (s.addCar body) := by
  unfold State.addCar
  split
  · exact refuse ..
  · split
    · exact refuse ..
    · exact refuse ..
    · exact ite (refuse ..) (ok rfl)

theorem withdrawCar (body : List Byte) : Proper s (s.withdrawCar body) := by
  unfold State.withdrawCar
  split
  · exact refuse ..
  · split
    · exact ok rfl
    · split <;> exact refuse ..

theorem moveCar (body : List Byte) : Proper s (s.moveCar body) := by
  unfold State.moveCar
  split
  · exact refuse ..
  · split
    · exact ite (ok rfl) (refuse ..)
    · split <;> exact refuse ..

/-! ### The spot sequencers -/

theorem forSpot {body : List Byte} {owner : SpotNo → State → Verdict} (owned : ∀ n, Proper s (owner n s)) :
    Proper s (s.forSpot body owner) := by
  unfold State.forSpot
  split
  · exact refuse ..
  · exact owned _

theorem assign (body : List Byte) : Proper s (State.assign body n s) := by
  refine ite (refuse ..) (ite (refuse ..) (ite (refuse ..) (ite (refuse ..) (ite (refuse ..) ?_))))
  split
  · exact refuse ..
  · exact ok (Course.moveOnInputs ..).line

theorem release : Proper s (State.release n s) := ite (refuse ..) (ite (refuse ..) (ite (refuse ..) (ok rfl)))

theorem start (body : List Byte) : Proper s (State.start body n s) :=
  ite (refuse ..) (ite (refuse ..) (ite (refuse ..) (ok (Course.enterStartWait ..).line)))

theorem hold : Proper s (State.hold n s) := ite (ok (Course.enterHeld ..).line) (ite (ok rfl) (refuse ..))

theorem resume : Proper s (State.resume n s) := by
  refine ite (refuse ..) (ite (refuse ..) ?_)
  split
  · exact ok (Course.resumeStripWait ..).line
  · exact ok (Course.enterStartWait ..).line
  · exact ok (Course.enterStartWait ..).line

theorem stop : Proper s (State.stop n s) := by
  unfold State.stop
  split
  case h_1 => exact ok ((Course.stopLiquid ..).line)
  case h_2 | h_3 | h_4 => exact ok (Course.enterPurge ..).line
  case h_5 =>
    dsimp only
    split
    · exact ok (Course.enterPurge ..).line
    · exact ok ((Course.stopLiquid ..).line)
    · exact ok ((Course.stopLiquid ..).line)
  case h_6 => exact ok rfl
  all_goals exact refuse ..

theorem resetTrip : Proper s (State.resetTrip n s) :=
  ite (refuse ..) (ite (refuse ..) (ok (Course.leaveTripped ..).line))

theorem overrideBypass (body : List Byte) : Proper s (State.overrideBypass body n s) :=
  ite (refuse ..) (ite (refuse ..) (ok rfl))

theorem configure (body : List Byte) : Proper s (State.configure body n s) := by
  refine ite (refuse ..) ?_
  split
  · exact refuse ..
  · rename_i c _
    have aborted : Event s ((s.abortStrokeOn n).onSpot n fun r => { r with config := c }) :=
      (Event.abortStrokeOn ..).trans (Course.onSpot ..).event
    refine ok ((apply_ite State.line ..).trans ?_)
    split
    · exact (Course.queueInit ..).line.trans aborted.line
    · exact (Course.judgePollIf ..).line.trans aborted.line

/-! ### The grade table, the siding unit, the proof scheduler, the ticket unit -/

theorem loadGrade (body : List Byte) : Proper s (s.loadGrade body) := by
  unfold State.loadGrade
  split
  · exact refuse ..
  · exact ite (refuse ..) (ok rfl)

theorem configureSiding (body : List Byte) : Proper s (s.configureSiding body) := by
  unfold State.configureSiding
  dsimp only
  split
  · exact refuse ..
  · exact ite (refuse ..) (ok ((apply_ite State.line ..).trans (ite_self _)))

theorem setMode (body : List Byte) : Proper s (s.setMode body) := by
  unfold State.setMode
  split
  · exact refuse ..
  · rename_i mode _
    refine ite (ok rfl) (ok ?_)
    cases mode with
    | run => exact (Course.examine _).line
    | quiet => rfl
    | shut => exact (Event.tellAll _ _ _ fun t n => (Course.enterHeld t n .sidingShut).event).line

theorem requestProof (body : List Byte) : Proper s (s.requestProof body) := by
  unfold State.requestProof
  split
  · exact refuse ..
  · refine ite (refuse ..) ?_
    split
    · exact refuse ..
    · exact ite (refuse ..) (ite (refuse ..) (ite (refuse ..) (ite (refuse ..) (ok (Event.startStroke ..).line))))

theorem releaseTicket (body : List Byte) : Proper s (s.releaseTicket body) := by
  unfold State.releaseTicket
  split
  · exact refuse ..
  · refine ite ?_ (refuse ..)
    unfold State.releaseOldest
    split
    · exact ok rfl
    · exact ok (Course.enterComplete ..).line

theorem takeRestart : Proper s s.takeRestart := by
  refine ite (refuse ..) (ok ?_)
  rw [State.restart_eq]
  exact (Event.abortStroke ..).line

end Verdict.Proper

/-- A request that reads leaves every block as it was. -/
theorem proper_of_same {s : State} {v : Verdict} (same : v.state = s) : v.Proper s ∧ v.state.pending = s.pending :=
  ⟨⟨congrArg State.line same, fun _ => same⟩, congrArg State.pending same⟩

/-- Every owner of the table leaves the line unit and the queue of commands, and a refusal leaves every block. -/
theorem proper_requestRow (body : List Byte) (s : State) (code : Nat) :
    ((requestRow body code).2 s).Proper s ∧ ((requestRow body code).2 s).state.pending = s.pending := by
  unfold requestRow
  split
  · exact ⟨.addCar body, s.pending_addCar body⟩
  · exact ⟨.withdrawCar body, s.pending_withdrawCar body⟩
  · exact ⟨.moveCar body, s.pending_moveCar body⟩
  · exact proper_of_same rfl
  · exact ⟨.forSpot fun n => .assign body, s.pending_forSpot fun n => s.pending_assign n body⟩
  · exact ⟨.forSpot fun n => .release, s.pending_forSpot s.pending_release⟩
  · exact ⟨.forSpot fun n => .start body, s.pending_forSpot fun n => s.pending_start n body⟩
  · exact ⟨.forSpot fun n => .hold, s.pending_forSpot s.pending_hold⟩
  · exact ⟨.forSpot fun n => .resume, s.pending_forSpot s.pending_resume⟩
  · exact ⟨.forSpot fun n => .stop, s.pending_forSpot s.pending_stop⟩
  · exact ⟨.forSpot fun n => .resetTrip, s.pending_forSpot s.pending_resetTrip⟩
  · exact ⟨.forSpot fun n => .overrideBypass body, s.pending_forSpot fun n => s.pending_overrideBypass n body⟩
  · exact ⟨.forSpot fun n => .configure body, s.pending_forSpot fun n => s.pending_configure n body⟩
  · exact proper_of_same (SharesFollowStates.state_readSpots body)
  · exact ⟨.loadGrade body, s.pending_loadGrade body⟩
  · exact proper_of_same (SharesFollowStates.state_readGrade body)
  · exact ⟨.configureSiding body, s.pending_configureSiding body⟩
  · exact ⟨.setMode body, s.pending_setMode body⟩
  · exact ⟨.requestProof body, s.pending_requestProof body⟩
  · exact proper_of_same rfl
  · exact proper_of_same SharesFollowStates.state_readTicket
  · exact ⟨.releaseTicket body, s.pending_releaseTicket body⟩
  · exact proper_of_same rfl
  · exact ⟨.takeRestart, s.pending_takeRestart⟩
  · exact ⟨.refuse .., rfl⟩

/-- A request of any code and any length is answered with a verdict: UNSUPPORTED, LENGTH, or its owner's (R186, R187). -/
theorem exec_requestOf_answers (code tag : Byte) (body : List Byte) (s : State) : ∃ v : Verdict,
    exec (requestOf code tag body) s = .next (v.state.answer code tag v.status v.result)
      ∧ v.Proper s ∧ v.state.pending = s.pending := by
  by_cases inTable : isRequestCode code = true
  · rw [exec_requestOf tag body s inTable]
    by_cases length : body.length = (requestRow body code.toNat).1
    · exact ⟨_, congrArg _ (State.serve_eq length rfl), proper_requestRow body s _⟩
    · exact ⟨s.refuse .length, congrArg _ (State.serve_length tag body s length), .refuse .., rfl⟩
  · rw [requestOf_outside tag body inTable]
    exact ⟨s.refuse .unsupported, exec_unsupported tag body s inTable, .refuse .., rfl⟩

/-- Settles O9: the reply is composed of a verdict that leaves the line unit, and leaves every block where it refuses. -/
theorem everyRequestIsAnswered : Obligations.EveryRequestIsAnswered := by
  unfold Obligations.EveryRequestIsAnswered
  intro code tag body s
  obtain ⟨v, answers, proper, pending⟩ := exec_requestOf_answers code tag body s
  have rate : v.state.line.rate = s.line.rate := congrArg LineUnit.rate proper.line
  refine ⟨_, _, answers, rfl, rfl, rfl, rate, rfl, rfl, ?_, fun refused => ?_, pending⟩
  · simp only [State.summary, bne, Bool.beq_eq_decide_eq, decide_not]
    rfl
  · have same : v.state = s := proper.refused refused
    rw [same]
    rfl

end Sys2Proof.Machine
end

section
/-! SUPPORT. Power-on reset (R198): each record at its power-on values, and the six invariants of Safety. -/

namespace Sys2Proof.Machine

section
variable (pins : PinLevels) (waiting : List Instr) (choices : Nat) (n : SpotNo)

@[simp] theorem spot_powerOn : (State.powerOn pins waiting choices).spot n = .fresh .powerOn := Vector.getElem_replicate _

@[simp] theorem meter_powerOn : (State.powerOn pins waiting choices).meter n = .fresh := Vector.getElem_replicate _

@[simp] theorem station_powerOn : (State.powerOn pins waiting choices).station n = .powerOn := Vector.getElem_replicate _

@[simp] theorem proofRecord_powerOn (v : ValveIndex) : (State.powerOn pins waiting choices).proofRecord v = .powerOn :=
  Vector.getElem_replicate _

@[simp] theorem grade_powerOn (g : GradeNo) : (State.powerOn pins waiting choices).grade g = none :=
  Vector.getElem_replicate _

/-- After power-on no ticket waits, no spot is TRIPPED and none of the twelve proofs is CURRENT (R189). -/
theorem summary_powerOn : (State.powerOn pins waiting choices).summary =
    { tickets := 0, tripped := [], notCurrent := 12, sidingMode := .shut, compressorMode := .idle } := by
  simp only [State.summary, spot_powerOn, proofRecord_powerOn]
  rfl

end

/-- Settles O3: every block at its power-on values; the line unit stands in HUNT with its gap timer loaded. -/
theorem powerOnResetValues : Obligations.PowerOnResetValues := by
  unfold Obligations.PowerOnResetValues
  intro pins s
  refine ⟨_, rfl, spot_powerOn pins _ _, meter_powerOn pins _ _, station_powerOn pins _ _, proofRecord_powerOn pins _ _, rfl,
    rfl, rfl, rfl, rfl, rfl, rfl, rfl, rfl, rfl, grade_powerOn pins _ _, rfl, rfl, rfl, rfl, rfl, rfl, rfl, rfl, rfl,
    summary_powerOn pins _ _, fun b => ?_, ?_⟩
  · exact exec_lineByte (LineUnit.take_of_hunt rfl b)
  · exact ⟨_, exec_gapExpiry (LineUnit.gapExpiry_of_hunt rfl rfl), rfl⟩

/-- Settles O4: an emptied state with fresh spots and fresh meters has each of the six. -/
theorem resetHasTheInvariants : Obligations.ResetHasTheInvariants := by
  unfold Obligations.ResetHasTheInvariants
  refine ⟨?_, Machine.PinLevels.named, rfl⟩
  rintro pins waiting k s rfl
  have capacities : CapacitiesHold (State.powerOn pins waiting k) := by
    constructor <;> simp [State.powerOn, LineUnit.powerOn]
  refine ⟨capacities, fun n => ?_, .nil, .powerOn pins waiting k, .of_empty rfl fun n => ?_, fun n => .cleared ?_⟩
  · rw [meter_powerOn]
    exact .fresh
  · rw [spot_powerOn]
    rfl
  · rw [spot_powerOn]
    rfl

end Sys2Proof.Machine
end

section
/-! SUPPORT. The queue and the passing of time (00_scope 4.6): what a step takes, and the records of the spots and of the
stations after 1 ms. -/

namespace Sys2Proof.Machine

section
variable {s : State} {c : Instr}

/-! ## What a step takes -/

theorem step_of_front {rest : List Instr} (front : s.pending = c :: rest) :
    step s = exec c { s with pending := rest } := by
  simp only [step, front]

theorem step_of_empty (empty : s.pending = []) : step s = s.idle := by
  simp only [step, empty]

theorem State.idle_of_none_due (quiet : s.dueEvents = []) : s.idle = .next s.tick := by
  simp only [State.idle, quiet]

theorem State.idle_of_one_due (one : s.dueEvents = [c]) : s.idle = exec c s := by
  simp only [State.idle, one]

/-- The place drawn is taken modulo the number of events owed, so that one of them stands there (log 7). -/
theorem State.idle_of_several_due (several : 2 ≤ s.dueEvents.length) :
    ∃ c ∈ s.dueEvents, s.idle = exec c { s with choices := s.choices + 1 } := by
  match due : s.dueEvents with
  | [] | [_] => simp [due] at several
  | c :: d :: more =>
    have inside : Config.freeChoice s.choices % (more.length + 2) < (c :: d :: more).length :=
      Nat.mod_lt _ (Nat.succ_pos _)
    refine ⟨(c :: d :: more)[_]'inside, List.getElem_mem inside, ?_⟩
    simp only [State.idle, due]
    rw [List.getD_eq_getElem _ _ inside]

end

/-! ## The records after 1 ms -/

section
variable (s : State) (n : SpotNo)

@[simp] theorem State.spot_tick : s.tick.spot n = (s.spot n).tick := Vector.getElem_ofFn _

@[simp] theorem State.station_tick : s.tick.station n = (s.station n).tick := Vector.getElem_ofFn _

end

/-- The transfer-limit timer loses 1 ms where it runs, and nothing where it does not (R16). -/
theorem SpotRecord.limitMs_tick (r : SpotRecord) : r.tick.limitMs = r.limitMs - if r.limitRunning then 1 else 0 := by
  unfold SpotRecord.tick
  split <;> rfl

/-- Settles O1: the queue's front is what `step` looks at first. -/
theorem stepRunsTheFrontCommand : Obligations.StepRunsTheFrontCommand := by
  intro c rest s
  exact step_of_front rfl

/-- Settles O2: with none, one or several events owed the idle block lets 1 ms pass, takes the one, or takes one of them. -/
theorem emptyQueueStep : Obligations.EmptyQueueStep := by
  intro s empty
  rw [step_of_empty empty]
  refine ⟨fun quiet => ⟨s.tick, State.idle_of_none_due quiet, rfl, fun n => ⟨?_, s.station_tick n⟩⟩,
    fun c one => State.idle_of_one_due one, State.idle_of_several_due⟩
  rw [State.spot_tick, ← SpotRecord.limitMs_tick]
  rfl

end Sys2Proof.Machine
end
